-- ==== Sys2Proof/Word.lean ====
section
/-! DEFINITION. Word types. Every quantity of the block is a byte or a byte sequence
(spec/00_scope.md R12); the ports are words of 68, 64, 40 and 4 bits (spec/30_encoding.md R60, R61). -/

namespace Sys2Proof

/-- A byte: 8 bits, numbered 7 (most significant) down to 0 (R8). -/
abbrev Byte := BitVec 8

/-- The operand bits `req_data[63:0]` of a request, and the result bits `rsp_data[63:0]` (R60, R61). -/
abbrev Data := BitVec 64

end Sys2Proof
end

