-- ==== Sys2Proof/Syntax.lean ====
section
/-! DEFINITION. The syntax: one constructor of `Instr` for each row of spec/opcode_table.json, the
words that encode them, and the written operations of spec/30_encoding.md R72. -/

namespace Sys2Proof

/-- The 5-byte operand `p[0..4]` of ENCODE (R64, R69). -/
structure Payload where
  p0 : Byte
  p1 : Byte
  p2 : Byte
  p3 : Byte
  p4 : Byte
  deriving DecidableEq, Repr

/-- The 8-byte operand `f[0..7]` of DECODE (R64, R68). -/
structure Frame where
  f0 : Byte
  f1 : Byte
  f2 : Byte
  f3 : Byte
  f4 : Byte
  f5 : Byte
  f6 : Byte
  f7 : Byte
  deriving DecidableEq, Repr

/-- The four argument bytes `a0..a3` that follow the command id in a payload (R160). -/
structure Arg where
  a0 : Byte
  a1 : Byte
  a2 : Byte
  a3 : Byte
  deriving DecidableEq, Repr

/-- One constructor per row of spec/opcode_table.json. The first sixteen are the requests of R65; the
last thirteen are the frame payloads of R71, with the row's command id and four free argument bytes. -/
inductive Instr where
  | nop
  | crcClear
  | crcUpdate (d : Byte)
  | crcRead
  | encode (p : Payload)
  | decode (f : Frame)
  | rxByte (b : Byte)
  | rxTimeout
  | rxFlush
  | reserved9
  | reservedA
  | reservedB
  | reservedC
  | reservedD
  | reservedE
  | reservedF
  | cmdGetDeviceInfo (a : Arg)
  | cmdObtainTemperature (a : Arg)
  | cmdSetMeasurementFrequency (a : Arg)
  | cmdSetDataFormat (a : Arg)
  | cmdStartMeasurement (a : Arg)
  | cmdStopMeasurement (a : Arg)
  | rspMeasurementData (a : Arg)
  | cmdSaveSettings (a : Arg)
  | cmdGetSerialNumber (a : Arg)
  | cmdSetMeasurementMode (a : Arg)
  | rspHighSpeedData (a : Arg)
  | cmdConfigureAddress (a : Arg)
  | cmdSetBaudRate (a : Arg)
  deriving DecidableEq, Repr

/-- The two formats of spec/opcode_table.json: the 68-bit request (`req_op` at 67:64, `req_data` at
63:0, R60) and the 40-bit frame payload (`p[0]` at 39:32, R160). -/
inductive ProgramWord where
  | request (w : BitVec 68)
  | payload (w : BitVec 40)
  deriving DecidableEq, Repr

/-- The mnemonics of the written operations of R72. -/
inductive Mnemonic where
  | nop
  | crcClear
  | crcUpdate
  | crcRead
  | encode
  | decode
  | rxByte
  | rxTimeout
  | rxFlush
  deriving DecidableEq, Repr

/-- One written line of R72: a mnemonic and its operand bytes, as many as were written. -/
structure AsmLine where
  mnemonic : Mnemonic
  operands : List Byte
  deriving DecidableEq, Repr

/-- The command builders of R177, the `CMD.<name>` pseudo-operations of R73. -/
inductive Command where
  | getDeviceInfo
  | setFrequency (hz : Nat)
  | setFormatByte
  | setFormatPixhawk
  | startMeasurement
  | stopMeasurement
  | saveSettings
  | setModeContinuous
  | setModeSingle
  | setModeContinuousStopped
  | setBaud (rate : Nat)
  deriving DecidableEq, Repr

/-- The bytes of a payload in index order. -/
def Payload.toList (p : Payload) : List Byte := [p.p0, p.p1, p.p2, p.p3, p.p4]

/-- The bytes of a frame in index order. -/
def Frame.toList (f : Frame) : List Byte := [f.f0, f.f1, f.f2, f.f3, f.f4, f.f5, f.f6, f.f7]

/-- The argument bytes in index order. -/
def Arg.toList (a : Arg) : List Byte := [a.a0, a.a1, a.a2, a.a3]

end Sys2Proof
end

