-- ==== Sys2Proof/Machine/Operands.lean ====
section
/-! DEFINITION. Operand forms: lane selection and result packing (spec/30_encoding.md R62, R63, R64),
slices and big-endian integers (spec/00_scope.md R9). -/

namespace Sys2Proof.Machine

/-- R9: `s[a..b]`, the indices `a` to `b` inclusive; empty when `b < a`. -/
def slice (s : List Byte) (a b : Nat) : List Byte := (s.drop a).take (b + 1 - a)

/-- R9: `BE(s)`, the unsigned integer whose big-endian bytes are `s`. -/
def be : List Byte → Nat
  | [] => 0
  | b :: bs => b.toNat * 256 ^ bs.length + be bs

/-- R9: `BE_n(v)`, the `n`-byte big-endian sequence of `v`. -/
def beBytes : Nat → Nat → List Byte
  | 0, _ => []
  | n + 1, v => BitVec.ofNat 8 (v / 256 ^ n) :: beBytes n v

/-- R62: `pack(s)`, the sum of `zext_64(s[i]) << (8 * (n - 1 - i))`; the head of the list is
followed by `n - 1 - i` bytes. -/
def pack : List Byte → Data
  | [] => 0
  | b :: bs => (b.setWidth 64 <<< (8 * bs.length)) + pack bs

/-- R63: byte `i` of an `n`-byte operand, `req_data[8*(n-1-i)+7 : 8*(n-1-i)]`. -/
def lane (n i : Nat) (data : Data) : Byte := data.extractLsb' (8 * (n - 1 - i)) 8

/-- R63: `unpack_n(req_data)`. -/
def unpack (n : Nat) (data : Data) : List Byte := (List.range n).map fun i => lane n i data

/-- R64: the operand `d` of CRC_UPDATE and `b` of RX_BYTE, `req_data[7:0]`. -/
def operandByte (data : Data) : Byte := lane 1 0 data

/-- R64: the operand `p[0..4]` of ENCODE, `p[0] = req_data[39:32]` to `p[4] = req_data[7:0]`. -/
def operandPayload (data : Data) : Payload :=
  { p0 := lane 5 0 data, p1 := lane 5 1 data, p2 := lane 5 2 data, p3 := lane 5 3 data,
    p4 := lane 5 4 data }

/-- R64: the operand `f[0..7]` of DECODE, `f[0] = req_data[63:56]` to `f[7] = req_data[7:0]`. -/
def operandFrame (data : Data) : Frame :=
  { f0 := lane 8 0 data, f1 := lane 8 1 data, f2 := lane 8 2 data, f3 := lane 8 3 data,
    f4 := lane 8 4 data, f5 := lane 8 5 data, f6 := lane 8 6 data, f7 := lane 8 7 data }

/-- The argument bytes `a0..a3` of a 40-bit payload word, bits 31:24 down to 7:0 (opcode_table.json,
R160). -/
def operandArg (w : BitVec 40) : Arg :=
  { a0 := w.extractLsb' 24 8, a1 := w.extractLsb' 16 8, a2 := w.extractLsb' 8 8,
    a3 := w.extractLsb' 0 8 }

/-- R160: the payload `[id, a0, a1, a2, a3]`. -/
def payloadOf (id : Byte) (a : Arg) : Payload :=
  { p0 := id, p1 := a.a0, p2 := a.a1, p3 := a.a2, p4 := a.a3 }

/-- R160: the argument `BE_4(v)`. -/
def argBe4 (v : Nat) : Arg :=
  { a0 := BitVec.ofNat 8 (v / 256 ^ 3), a1 := BitVec.ofNat 8 (v / 256 ^ 2),
    a2 := BitVec.ofNat 8 (v / 256), a3 := BitVec.ofNat 8 v }

/-- R160: the argument `00 00 00 sel`; the all-zero argument is `argSelector 0`. -/
def argSelector (sel : Byte) : Arg := { a0 := 0, a1 := 0, a2 := 0, a3 := sel }

end Sys2Proof.Machine
end

