-- ==== Sys2Proof/WellFormed.lean ====
section
/-! DEFINITION. What is well formed. An `Instr` carries exactly the operand bytes its row has, and
every byte value is legal (spec/30_encoding.md R63, R66, R71), so an `Instr` has no ill-formed term.
Two forms that stand before it can be ill formed: a written line with the wrong number of operand
bytes (R64; spec/93_implementation_defined.md I1), and a payload word whose command id is not in the
map of R71. -/

namespace Sys2Proof

/-- The number of operand bytes of each operation (R64). -/
def operandCount : Mnemonic → Nat
  | .nop => 0
  | .crcClear => 0
  | .crcUpdate => 1
  | .crcRead => 0
  | .encode => 5
  | .decode => 8
  | .rxByte => 1
  | .rxTimeout => 0
  | .rxFlush => 0

/-- R64: the number of operand bytes of each operation code; the bits of `req_data` above them are
ignored (R63). -/
def operandBytesOf (op : BitVec 4) : Nat :=
  if op = 0x2#4 ∨ op = 0x6#4 then 1
  else if op = 0x4#4 then 5
  else if op = 0x5#4 then 8
  else 0

/-- A written line has as many operand bytes as its operation takes (R64, R72). -/
def AsmLine.wellFormed (l : AsmLine) : Bool := l.operands.length == operandCount l.mnemonic

/-- The command ids that the map of R71 names. -/
def namedCommandIds : List Byte :=
  [0x01#8, 0x02#8, 0x03#8, 0x04#8, 0x05#8, 0x06#8, 0x07#8, 0x08#8, 0x0A#8, 0x0D#8, 0x0E#8, 0x11#8, 0x12#8]

/-- Every request word is well formed (R65); a payload word is when its command id is named (R71). -/
def ProgramWord.wellFormed : ProgramWord → Bool
  | .request _ => true
  | .payload w => namedCommandIds.contains (w.extractLsb' 32 8)

end Sys2Proof
end

