-- ==== Sys2Proof/Decode.lean ====
section
/-! DEFINITION. Decoding and encoding (spec/30_encoding.md R60, R63 to R66; spec/45_command_payloads.md
R160 to R173 for the payload rows). The decoder of requests is total over all 2^68 words (R65). A
payload word whose command id the map of R71 does not name is rejected by name. -/

namespace Sys2Proof

/-- Why a word decodes to no instruction. -/
inductive DecodeError where
  /-- A payload word whose command id no row of the table names (log entry 7). -/
  | unnamedCommandId (id : Byte)
  deriving DecidableEq, Repr

/-- R60: `req_op`, bits 67 to 64 of a request word. -/
def requestOp (w : BitVec 68) : BitVec 4 := w.extractLsb' 64 4

/-- R60: `req_data`, bits 63 to 0 of a request word. -/
def requestData (w : BitVec 68) : Data := w.extractLsb' 0 64

/-- R65: the operation map, with the operand forms of R64. The last arm is the one value that is
left, `0xF`. -/
def decodeRequest (w : BitVec 68) : Instr :=
  match requestOp w with
  | 0x0#4 => .nop
  | 0x1#4 => .crcClear
  | 0x2#4 => .crcUpdate (Machine.operandByte (requestData w))
  | 0x3#4 => .crcRead
  | 0x4#4 => .encode (Machine.operandPayload (requestData w))
  | 0x5#4 => .decode (Machine.operandFrame (requestData w))
  | 0x6#4 => .rxByte (Machine.operandByte (requestData w))
  | 0x7#4 => .rxTimeout
  | 0x8#4 => .rxFlush
  | 0x9#4 => .reserved9
  | 0xA#4 => .reservedA
  | 0xB#4 => .reservedB
  | 0xC#4 => .reservedC
  | 0xD#4 => .reservedD
  | 0xE#4 => .reservedE
  | _ => .reservedF

/-- R71: the command-id map, on a 40-bit payload word. -/
def decodePayload (w : BitVec 40) : Except DecodeError Instr :=
  match w.extractLsb' 32 8 with
  | 0x01#8 => .ok (.cmdGetDeviceInfo (Machine.operandArg w))
  | 0x02#8 => .ok (.cmdObtainTemperature (Machine.operandArg w))
  | 0x03#8 => .ok (.cmdSetMeasurementFrequency (Machine.operandArg w))
  | 0x04#8 => .ok (.cmdSetDataFormat (Machine.operandArg w))
  | 0x05#8 => .ok (.cmdStartMeasurement (Machine.operandArg w))
  | 0x06#8 => .ok (.cmdStopMeasurement (Machine.operandArg w))
  | 0x07#8 => .ok (.rspMeasurementData (Machine.operandArg w))
  | 0x08#8 => .ok (.cmdSaveSettings (Machine.operandArg w))
  | 0x0A#8 => .ok (.cmdGetSerialNumber (Machine.operandArg w))
  | 0x0D#8 => .ok (.cmdSetMeasurementMode (Machine.operandArg w))
  | 0x0E#8 => .ok (.rspHighSpeedData (Machine.operandArg w))
  | 0x11#8 => .ok (.cmdConfigureAddress (Machine.operandArg w))
  | 0x12#8 => .ok (.cmdSetBaudRate (Machine.operandArg w))
  | id => .error (.unnamedCommandId id)

/-- The instruction a program word stands for. -/
def decodeWord : ProgramWord → Except DecodeError Instr
  | .request w => .ok (decodeRequest w)
  | .payload w => decodePayload w

/-- R60: the request word of an operation code and its operand bits. -/
def requestWord (op : BitVec 4) (data : Data) : ProgramWord := .request (op ++ data)

/-- R64: the operand bits of a one-byte operand; an assembler writes zeros in ignored lanes (R72). -/
def dataOfByte (b : Byte) : Data := 0#56 ++ b

/-- R64: the operand bits of ENCODE. -/
def dataOfPayload (p : Payload) : Data := 0#24 ++ p.p0 ++ p.p1 ++ p.p2 ++ p.p3 ++ p.p4

/-- R64: the operand bits of DECODE. -/
def dataOfFrame (f : Frame) : Data :=
  f.f0 ++ f.f1 ++ f.f2 ++ f.f3 ++ f.f4 ++ f.f5 ++ f.f6 ++ f.f7

/-- R160: the 40-bit payload word of a command id and its argument bytes. -/
def payloadWord (id : Byte) (a : Arg) : ProgramWord := .payload (id ++ a.a0 ++ a.a1 ++ a.a2 ++ a.a3)

/-- The word of an instruction (R64, R65, R72 for requests; R160 and R71 for payloads). -/
def encodeInstr : Instr → ProgramWord
  | .nop => requestWord 0x0#4 0
  | .crcClear => requestWord 0x1#4 0
  | .crcUpdate d => requestWord 0x2#4 (dataOfByte d)
  | .crcRead => requestWord 0x3#4 0
  | .encode p => requestWord 0x4#4 (dataOfPayload p)
  | .decode f => requestWord 0x5#4 (dataOfFrame f)
  | .rxByte b => requestWord 0x6#4 (dataOfByte b)
  | .rxTimeout => requestWord 0x7#4 0
  | .rxFlush => requestWord 0x8#4 0
  | .reserved9 => requestWord 0x9#4 0
  | .reservedA => requestWord 0xA#4 0
  | .reservedB => requestWord 0xB#4 0
  | .reservedC => requestWord 0xC#4 0
  | .reservedD => requestWord 0xD#4 0
  | .reservedE => requestWord 0xE#4 0
  | .reservedF => requestWord 0xF#4 0
  | .cmdGetDeviceInfo a => payloadWord 0x01#8 a
  | .cmdObtainTemperature a => payloadWord 0x02#8 a
  | .cmdSetMeasurementFrequency a => payloadWord 0x03#8 a
  | .cmdSetDataFormat a => payloadWord 0x04#8 a
  | .cmdStartMeasurement a => payloadWord 0x05#8 a
  | .cmdStopMeasurement a => payloadWord 0x06#8 a
  | .rspMeasurementData a => payloadWord 0x07#8 a
  | .cmdSaveSettings a => payloadWord 0x08#8 a
  | .cmdGetSerialNumber a => payloadWord 0x0A#8 a
  | .cmdSetMeasurementMode a => payloadWord 0x0D#8 a
  | .rspHighSpeedData a => payloadWord 0x0E#8 a
  | .cmdConfigureAddress a => payloadWord 0x11#8 a
  | .cmdSetBaudRate a => payloadWord 0x12#8 a

/-- A row of spec/opcode_table.json as bits: its width, its match (here `pattern`) and its mask. -/
structure TableRow where
  width : Nat
  pattern : Nat
  mask : Nat
  deriving DecidableEq, Repr

/-- A request row: `req_op` fixed, `req_data` free. -/
def requestRow (op : Nat) : TableRow := { width := 68, pattern := op <<< 64, mask := 0xF <<< 64 }

/-- A payload row: the command id fixed, the argument bytes free. -/
def payloadRow (id : Nat) : TableRow := { width := 40, pattern := id <<< 32, mask := 0xFF <<< 32 }

/-- The sixteen request rows and thirteen payload rows of spec/opcode_table.json, in its order. -/
def opcodeTable : List TableRow :=
  [requestRow 0x0, requestRow 0x1, requestRow 0x2, requestRow 0x3, requestRow 0x4, requestRow 0x5,
   requestRow 0x6, requestRow 0x7, requestRow 0x8] ++
  [requestRow 0x9, requestRow 0xA, requestRow 0xB, requestRow 0xC, requestRow 0xD, requestRow 0xE,
   requestRow 0xF] ++
  [payloadRow 0x01, payloadRow 0x02, payloadRow 0x03, payloadRow 0x04, payloadRow 0x05,
   payloadRow 0x06, payloadRow 0x07, payloadRow 0x08, payloadRow 0x0A, payloadRow 0x0D,
   payloadRow 0x0E, payloadRow 0x11, payloadRow 0x12]

/-- The row of spec/opcode_table.json an instruction stands for. -/
def instrRow : Instr → TableRow
  | .nop => requestRow 0x0
  | .crcClear => requestRow 0x1
  | .crcUpdate _ => requestRow 0x2
  | .crcRead => requestRow 0x3
  | .encode _ => requestRow 0x4
  | .decode _ => requestRow 0x5
  | .rxByte _ => requestRow 0x6
  | .rxTimeout => requestRow 0x7
  | .rxFlush => requestRow 0x8
  | .reserved9 => requestRow 0x9
  | .reservedA => requestRow 0xA
  | .reservedB => requestRow 0xB
  | .reservedC => requestRow 0xC
  | .reservedD => requestRow 0xD
  | .reservedE => requestRow 0xE
  | .reservedF => requestRow 0xF
  | .cmdGetDeviceInfo _ => payloadRow 0x01
  | .cmdObtainTemperature _ => payloadRow 0x02
  | .cmdSetMeasurementFrequency _ => payloadRow 0x03
  | .cmdSetDataFormat _ => payloadRow 0x04
  | .cmdStartMeasurement _ => payloadRow 0x05
  | .cmdStopMeasurement _ => payloadRow 0x06
  | .rspMeasurementData _ => payloadRow 0x07
  | .cmdSaveSettings _ => payloadRow 0x08
  | .cmdGetSerialNumber _ => payloadRow 0x0A
  | .cmdSetMeasurementMode _ => payloadRow 0x0D
  | .rspHighSpeedData _ => payloadRow 0x0E
  | .cmdConfigureAddress _ => payloadRow 0x11
  | .cmdSetBaudRate _ => payloadRow 0x12

/-- The bits of a program word as one number, and its width. -/
def ProgramWord.width : ProgramWord → Nat
  | .request _ => 68
  | .payload _ => 40

/-- The word as one number, numbered as the table numbers its bits. -/
def ProgramWord.toNat : ProgramWord → Nat
  | .request w => w.toNat
  | .payload w => w.toNat

/-- A word fits a row: same width, and the row's fixed bits. -/
def ProgramWord.fits (w : ProgramWord) (r : TableRow) : Bool :=
  w.width == r.width && w.toNat &&& r.mask == r.pattern

/-- The program word with the bits `w` of a table row of `nbits` bits. A payload row has 40 bits; a
request row has 68, which is 72 in whole bytes (log entry 14). `none` where the bits above the
format's width are not zero. -/
def tableWord (nbits w : Nat) : Option ProgramWord :=
  if nbits ≤ 40 then
    if w < 2 ^ nbits then some (.payload (BitVec.ofNat 40 w)) else none
  else if w < 2 ^ 68 then some (.request (BitVec.ofNat 68 w)) else none

/-- The instruction the decoder reads from the bits `w` of a table row of `nbits` bits. -/
def decodeTableWord (nbits w : Nat) : Option Instr :=
  match tableWord nbits w with
  | none => none
  | some word =>
    match decodeWord word with
    | .ok i => some i
    | .error _ => none

end Sys2Proof
end

