-- ==== Sys2Proof/Machine/Codec.lean ====
section
/-! DEFINITION. The pure functions of the codec and its fixed parameters: `crc8`
(spec/40_crc.md R100, R101, R104), `wrap` (spec/41_encoder.md R120) and `unwrap`
(spec/42_decoder.md R130). The parameters are those of spec/00_scope.md R5. -/

namespace Sys2Proof.Machine

/-- `CRC_POLY`: x^8 + x^5 + x^4 + 1 with the x^8 term implicit (R5). -/
def crcPoly : BitVec 8 := 0x31#8

/-- `CRC_INIT` (R5). -/
def crcInit : Byte := 0x00#8

/-- `SOF`, the start delimiter (R5). -/
def sof : Byte := 0x55#8

/-- `EOF`, the stop delimiter (R5). -/
def eof : Byte := 0xAA#8

/-- `PAYLOAD_LEN` (R5). -/
def payloadLen : Nat := 5

/-- `FRAME_LEN` (R5). -/
def frameLen : Nat := payloadLen + 3

/-- R100: one of the eight iterations; bit 7 is tested before the shift. -/
def crcShift (r : BitVec 8) : BitVec 8 := if r.getLsbD 7 then (r <<< 1) ^^^ crcPoly else r <<< 1

/-- `n` iterations of R100. -/
def crcShifts : Nat → BitVec 8 → BitVec 8
  | 0, r => r
  | n + 1, r => crcShifts n (crcShift r)

/-- R100: `crc_step(c, b)`. -/
def crcStep (c b : BitVec 8) : BitVec 8 := crcShifts 8 (c ^^^ b)

/-- R101: the fold of `crc_step` over a byte sequence, from a given register value. -/
def crcFrom (c : Byte) (s : List Byte) : Byte := s.foldl crcStep c

/-- R101: `crc8(s)`. -/
def crc8 (s : List Byte) : Byte := crcFrom crcInit s

/-- R104: `CRC_TABLE[x] = crc_step(0x00, x)`, as the list of its 256 cells. -/
def crcTable : List Byte := (List.range 256).map fun x => crcStep 0x00#8 (BitVec.ofNat 8 x)

/-- R120: `wrap(p)` for a payload of any length. -/
def wrap (p : List Byte) : List Byte := [sof] ++ p ++ [crc8 p, eof]

/-- R11: what `unwrap` returns. -/
inductive Verdict where
  | ok (p : List Byte)
  | framingError
  | checksumError
  deriving DecidableEq, Repr

/-- R130: `unwrap(f)` for a frame of any length, the delimiter check first. -/
def unwrap (f : List Byte) : Verdict :=
  let n := f.length
  if n < 3 then .framingError
  else if f[0]? ≠ some sof ∨ f[n - 1]? ≠ some eof then .framingError
  else if some (crc8 (slice f 1 (n - 3))) ≠ f[n - 2]? then .checksumError
  else .ok (slice f 1 (n - 3))

end Sys2Proof.Machine
end

