-- ==== Sys2Proof/Machine/State.lean ====
section
/-! DEFINITION. The state of the block (spec/10_state.md R20 to R24, R31), its responses
(spec/30_encoding.md R61), and what the host and the reset source do next (spec/00_scope.md R7). -/

namespace Sys2Proof.Machine

/-- The statuses that `rsp_status` takes (spec/60_exceptions.md R190); the codes 6 to E are reserved
and never produced, so they have no constructor. -/
inductive Status where
  | ok
  | framingError
  | checksumError
  | frameTimeout
  | pending
  | flushed
  | illegalOp
  deriving DecidableEq, Repr

/-- R61: one value of the response port, `rsp_status[3:0]`, `rsp_len[3:0]` and `rsp_data[63:0]`. -/
structure Response where
  status : BitVec 4
  len : BitVec 4
  data : Data
  deriving DecidableEq, Repr

/-- What the host or the reset source does next (R7, R210). -/
inductive Input where
  /-- The host issues a word, and its operation runs to its response. -/
  | issue (w : ProgramWord)
  /-- The host issues a word, and reset is asserted before it has its response (R210, R195). -/
  | issueCutByReset (w : ProgramWord)
  /-- The reset source asserts reset while no operation is in flight (R210). -/
  | assertReset
  /-- The reset source releases reset (R210). -/
  | releaseReset
  deriving DecidableEq, Repr

/-- The block raises no fault. Every error is a status of a response, "never as uncaught faults"
(spec/60_exceptions.md R190, R193), so this type has no constructor, and no step ends in a fault. -/
inductive Fault
  deriving DecidableEq, Repr

/-- Why the model gives a step no meaning. -/
inductive Refusal where
  /-- Raised by an arm of exec for an instruction without a meaning. No arm raises it. Safe. -/
  | notModelled (mnemonic : String)
  /-- Raised by RX_BYTE, RX_TIMEOUT and RX_FLUSH when a slot of `rx_buf` below `rx_count` holds no
  value (spec/93_implementation_defined.md U3). No run from reset reaches such a state (R24). Safe. -/
  | rxSlotAbsent
  /-- Raised by a step whose program word is a payload with a command id that no row of the opcode
  table names (log entry 7). Safe: ENCODE frames the same payload (R71). -/
  | unnamedCommandId (id : Byte)
  deriving DecidableEq, Repr

/-- The state of the machine. `crcReg`, `rxBuf` and `rxCount` are the spec's three elements (R20); the
other fields are the model's own, and no operation of the block reads them. -/
structure State where
  /-- `crc_reg`, 8 bits (R21). -/
  crcReg : Byte
  /-- `rx_buf[0..7]`; a slot that holds no value is `none` (R22). -/
  rxBuf : Vector (Option Byte) 8
  /-- `rx_count`, 0 to 7 (R23, R24). -/
  rxCount : Fin 8
  /-- The reset input is asserted (R210; log entry 4). -/
  inReset : Bool
  /-- What the host and the reset source do next, first to come first (R7, R25; log entry 2). -/
  inputs : List Input
  /-- What the response port carried in the step that led here, oldest first; every step starts with
  none, so no response outlives its step (R29; log entry 1). -/
  responses : List Response
  deriving DecidableEq, Repr

/-- The machine right after reset (R31), with no input waiting and no response returned. -/
def State.reset : State where
  crcReg := 0x00#8
  rxBuf := Vector.replicate 8 none
  rxCount := 0
  inReset := false
  inputs := []
  responses := []

end Sys2Proof.Machine
end

