-- ==== Sys2Proof/Machine/Flags.lean ====
section
/-! DEFINITION. The block has no persistent flags (spec/10_state.md R26): the only condition it
reports is the status of a response. Here are the status codes (spec/60_exceptions.md R190) and the
status and result bytes of a verdict (spec/42_decoder.md R131). -/

namespace Sys2Proof.Machine

/-- R190: the code of a status. -/
def statusCode : Status → BitVec 4
  | .ok => 0x0#4
  | .framingError => 0x1#4
  | .checksumError => 0x2#4
  | .frameTimeout => 0x3#4
  | .pending => 0x4#4
  | .flushed => 0x5#4
  | .illegalOp => 0xF#4

/-- R131: the status of a verdict. -/
def verdictStatus : Verdict → Status
  | .ok _ => .ok
  | .framingError => .framingError
  | .checksumError => .checksumError

/-- R131, R191: the bytes that go with a verdict on the frame `f`: the payload, or the raw frame. -/
def verdictBytes (f : List Byte) : Verdict → List Byte
  | .ok p => p
  | .framingError => f
  | .checksumError => f

end Sys2Proof.Machine
end

