-- ==== Sys2Proof/Machine/Ops.lean ====
section
/-! DEFINITION. The shared operations of the meanings: responding (spec/00_scope.md R10), reporting an
error, which is all that taking an exception is on this block (spec/60_exceptions.md R193, R194), the
accumulator of the deframer (spec/10_state.md R22 to R24), and the reset input
(spec/70_reset_and_hazards.md R210). -/

namespace Sys2Proof.Machine

/-- The outcome of a meaning. -/
abbrev Result := Host.Outcome State Fault Refusal

/-- One meaning after another; a stop of the first is the stop of both. -/
def andThen (r : Result) (k : State → Result) : Result :=
  match r with
  | .next s => k s
  | .fault e => .fault e
  | .refused e => .refused e

/-- R61, R62: the response with a status and result bytes. -/
def mkResponse (st : Status) (bytes : List Byte) : Response :=
  { status := statusCode st, len := BitVec.ofNat 4 bytes.length, data := pack bytes }

/-- R10, R29: `respond(status, n, data)`, with the result bytes in place of `n` and `data`. The response
joins those that the present step returns. -/
def State.respond (s : State) (st : Status) (bytes : List Byte) : State :=
  { s with responses := s.responses ++ [mkResponse st bytes] }

/-- R10, R193: `raise <Status>(s)`. An error ends its operation with the error response: it saves
nothing, changes no mode and transfers control nowhere, and there is no return from it (R194). -/
def State.raise (s : State) (st : Status) (bytes : List Byte) : State := s.respond st bytes

/-- R131, R140: the response to a whole frame. -/
def State.respondVerdict (s : State) (f : List Byte) : State :=
  match unwrap f with
  | .ok p => s.respond .ok (verdictBytes f (.ok p))
  | .framingError => s.raise .framingError (verdictBytes f .framingError)
  | .checksumError => s.raise .checksumError (verdictBytes f .checksumError)

/-- Every value of a list of slots, `none` where one of them holds no value. -/
def allPresent : List (Option Byte) → Option (List Byte)
  | [] => some []
  | none :: _ => none
  | some b :: rest =>
    match allPresent rest with
    | none => none
    | some bs => some (b :: bs)

/-- R140, R142: `rx_buf[0..rx_count-1]`, `none` where one of these slots holds no value (U3). -/
def State.rxValid (s : State) : Option (List Byte) :=
  allPresent (s.rxBuf.toList.take s.rxCount.val)

/-- Read the valid bytes of the accumulator; a slot without a value is refused (U3). -/
def withRxValid (s : State) (k : List Byte → Result) : Result :=
  match s.rxValid with
  | some bs => k bs
  | none => .refused .rxSlotAbsent

/-- R140: `rx_buf[rx_count] <- b` and `rx_count <- rx_count + 1`. -/
def State.rxStore (s : State) (b : Byte) : State :=
  { s with rxBuf := s.rxBuf.set s.rxCount.val (some b), rxCount := s.rxCount + 1 }

/-- R140, R142, R143: `rx_count <- 0`, after which no slot holds a value. -/
def State.rxClear (s : State) : State :=
  { s with rxBuf := Vector.replicate 8 none, rxCount := 0 }

/-- R140: one received byte. -/
def receiveByte (b : Byte) (s : State) : Result :=
  if s.rxCount.val < 7 then
    withRxValid (s.rxStore b) fun bs => .next ((s.rxStore b).respond .pending bs)
  else
    withRxValid s fun bs => .next (s.rxClear.respondVerdict (bs ++ [b]))

/-- R73: received bytes, each one an RX_BYTE, in order. -/
def receiveBytes : List Byte → State → Result
  | [], s => .next s
  | b :: bs, s => andThen (receiveByte b s) (receiveBytes bs)

/-- R121: frame a payload. -/
def encodePayload (p : Payload) (s : State) : Result := .next (s.respond .ok (wrap p.toList))

/-- R151: the answer to a reserved operation code. -/
def reservedOp (s : State) : Result := .next (s.raise .illegalOp [])

/-- R73, R160: the pseudo-operation of a command id, one ENCODE of its payload. -/
def sendCommand (id : Byte) (a : Arg) (s : State) : Result := encodePayload (payloadOf id a) s

/-- R73, R160: the host receives the frame that carries a payload, `RX.FRAME` of `wrap(p)`. -/
def receiveResponse (id : Byte) (a : Arg) (s : State) : Result :=
  receiveBytes (wrap (payloadOf id a).toList) s

/-- R210: asserting reset sets the spec's three elements to the values of R31. -/
def State.assertReset (s : State) : State :=
  { s with crcReg := crcInit, rxBuf := Vector.replicate 8 none, rxCount := 0, inReset := true }

/-- R210: releasing reset. -/
def State.releaseReset (s : State) : State := { s with inReset := false }

end Sys2Proof.Machine
end

