-- ==== Sys2Proof/Machine/Commands.lean ====
section
/-! DEFINITION. The frame-payload rows of the opcode table (spec/45_command_payloads.md R161 to R173).
They are data that frames carry, not operations of the block (spec/30_encoding.md R71). A host to
device row means the `CMD.<name>` of R73, one ENCODE of its payload; a device to host row means the
host's reception of the frame that carries it, the `RX.FRAME` of R73 (R160; DEDUCED, log entries 5
and 6). -/

namespace Sys2Proof.Machine

/-- Command id `0x01`, get-device-info (R161). -/
def execCmdGetDeviceInfo (a : Arg) (s : State) : Result := sendCommand 0x01#8 a s

/-- Command id `0x02`, obtain-temperature (R162). -/
def execCmdObtainTemperature (a : Arg) (s : State) : Result := sendCommand 0x02#8 a s

/-- Command id `0x03`, set-measurement-frequency (R163). -/
def execCmdSetMeasurementFrequency (a : Arg) (s : State) : Result := sendCommand 0x03#8 a s

/-- Command id `0x04`, set-data-format (R164). -/
def execCmdSetDataFormat (a : Arg) (s : State) : Result := sendCommand 0x04#8 a s

/-- Command id `0x05`, start-measurement (R165). -/
def execCmdStartMeasurement (a : Arg) (s : State) : Result := sendCommand 0x05#8 a s

/-- Command id `0x06`, stop-measurement (R166). -/
def execCmdStopMeasurement (a : Arg) (s : State) : Result := sendCommand 0x06#8 a s

/-- Command id `0x07`, measurement-data-response (R167). -/
def execRspMeasurementData (a : Arg) (s : State) : Result := receiveResponse 0x07#8 a s

/-- Command id `0x08`, save-settings (R168). -/
def execCmdSaveSettings (a : Arg) (s : State) : Result := sendCommand 0x08#8 a s

/-- Command id `0x0A`, get-serial-number (R169). -/
def execCmdGetSerialNumber (a : Arg) (s : State) : Result := sendCommand 0x0A#8 a s

/-- Command id `0x0D`, set-measurement-mode (R170). -/
def execCmdSetMeasurementMode (a : Arg) (s : State) : Result := sendCommand 0x0D#8 a s

/-- Command id `0x0E`, high-speed-data-response (R171). -/
def execRspHighSpeedData (a : Arg) (s : State) : Result := receiveResponse 0x0E#8 a s

/-- Command id `0x11`, configure-address (R172). -/
def execCmdConfigureAddress (a : Arg) (s : State) : Result := sendCommand 0x11#8 a s

/-- Command id `0x12`, set-baud-rate (R173). -/
def execCmdSetBaudRate (a : Arg) (s : State) : Result := sendCommand 0x12#8 a s

end Sys2Proof.Machine
end

