-- ==== Sys2Proof/Machine/Control.lean ====
section
/-! DEFINITION. Control operations: NOP and the reserved codes (spec/44_control.md R150, R151). -/

namespace Sys2Proof.Machine

/-- NOP (R150). -/
def execNop (s : State) : Result := .next (s.respond .ok [])

/-- Reserved code 9 (R151). -/
def execReserved9 (s : State) : Result := reservedOp s

/-- Reserved code A (R151). -/
def execReservedA (s : State) : Result := reservedOp s

/-- Reserved code B (R151). -/
def execReservedB (s : State) : Result := reservedOp s

/-- Reserved code C (R151). -/
def execReservedC (s : State) : Result := reservedOp s

/-- Reserved code D (R151). -/
def execReservedD (s : State) : Result := reservedOp s

/-- Reserved code E (R151). -/
def execReservedE (s : State) : Result := reservedOp s

/-- Reserved code F (R151). -/
def execReservedF (s : State) : Result := reservedOp s

end Sys2Proof.Machine
end

