-- ==== Sys2Proof/Machine/Crc.lean ====
section
/-! DEFINITION. The streaming CRC generator (spec/40_crc.md R107 to R109). -/

namespace Sys2Proof.Machine

/-- CRC_CLEAR (R107). -/
def execCrcClear (s : State) : Result :=
  .next ({ s with crcReg := crcInit }.respond .ok [crcInit])

/-- CRC_UPDATE (R108). -/
def execCrcUpdate (d : Byte) (s : State) : Result :=
  .next ({ s with crcReg := crcStep s.crcReg d }.respond .ok [crcStep s.crcReg d])

/-- CRC_READ (R109). -/
def execCrcRead (s : State) : Result := .next (s.respond .ok [s.crcReg])

end Sys2Proof.Machine
end

