-- ==== Sys2Proof/Machine/Deframer.lean ====
section
/-! DEFINITION. The deframer (spec/43_deframer.md R140, R142, R143). -/

namespace Sys2Proof.Machine

/-- RX_BYTE (R140). -/
def execRxByte (b : Byte) (s : State) : Result := receiveByte b s

/-- RX_TIMEOUT (R142). -/
def execRxTimeout (s : State) : Result :=
  withRxValid s fun bs => .next (s.rxClear.raise .frameTimeout bs)

/-- RX_FLUSH (R143). -/
def execRxFlush (s : State) : Result :=
  withRxValid s fun bs => .next (s.rxClear.respond .flushed bs)

end Sys2Proof.Machine
end

