-- ==== Sys2Proof/Machine/Framing.lean ====
section
/-! DEFINITION. The frame encoder and decoder (spec/41_encoder.md R121, spec/42_decoder.md R131). -/

namespace Sys2Proof.Machine

/-- ENCODE (R121). -/
def execEncode (p : Payload) (s : State) : Result := encodePayload p s

/-- DECODE (R131). -/
def execDecode (f : Frame) (s : State) : Result := .next (s.respondVerdict f.toList)

end Sys2Proof.Machine
end

