-- ==== Sys2Proof/Machine/Dispatch.lean ====
section
/-! DEFINITION. One arm per instruction, each one call of its meaning. -/

namespace Sys2Proof.Machine

def exec (i : Instr) (s : State) : Host.Outcome State Fault Refusal :=
  match i with
  | .nop => Sys2Proof.Machine.execNop s
  | .crcClear => Sys2Proof.Machine.execCrcClear s
  | .crcUpdate d => Sys2Proof.Machine.execCrcUpdate d s
  | .crcRead => Sys2Proof.Machine.execCrcRead s
  | .encode p => Sys2Proof.Machine.execEncode p s
  | .decode f => Sys2Proof.Machine.execDecode f s
  | .rxByte b => Sys2Proof.Machine.execRxByte b s
  | .rxTimeout => Sys2Proof.Machine.execRxTimeout s
  | .rxFlush => Sys2Proof.Machine.execRxFlush s
  | .reserved9 => Sys2Proof.Machine.execReserved9 s
  | .reservedA => Sys2Proof.Machine.execReservedA s
  | .reservedB => Sys2Proof.Machine.execReservedB s
  | .reservedC => Sys2Proof.Machine.execReservedC s
  | .reservedD => Sys2Proof.Machine.execReservedD s
  | .reservedE => Sys2Proof.Machine.execReservedE s
  | .reservedF => Sys2Proof.Machine.execReservedF s
  | .cmdGetDeviceInfo a => Sys2Proof.Machine.execCmdGetDeviceInfo a s
  | .cmdObtainTemperature a => Sys2Proof.Machine.execCmdObtainTemperature a s
  | .cmdSetMeasurementFrequency a => Sys2Proof.Machine.execCmdSetMeasurementFrequency a s
  | .cmdSetDataFormat a => Sys2Proof.Machine.execCmdSetDataFormat a s
  | .cmdStartMeasurement a => Sys2Proof.Machine.execCmdStartMeasurement a s
  | .cmdStopMeasurement a => Sys2Proof.Machine.execCmdStopMeasurement a s
  | .rspMeasurementData a => Sys2Proof.Machine.execRspMeasurementData a s
  | .cmdSaveSettings a => Sys2Proof.Machine.execCmdSaveSettings a s
  | .cmdGetSerialNumber a => Sys2Proof.Machine.execCmdGetSerialNumber a s
  | .cmdSetMeasurementMode a => Sys2Proof.Machine.execCmdSetMeasurementMode a s
  | .rspHighSpeedData a => Sys2Proof.Machine.execRspHighSpeedData a s
  | .cmdConfigureAddress a => Sys2Proof.Machine.execCmdConfigureAddress a s
  | .cmdSetBaudRate a => Sys2Proof.Machine.execCmdSetBaudRate a s

end Sys2Proof.Machine
end

