-- ==== Sys2Proof/Machine/Issue.lean ====
section
/-! DEFINITION. Taking the next input: a request of the host, or an event of the reset source
(spec/00_scope.md R7, spec/20_memory.md R49, spec/70_reset_and_hazards.md R210). -/

namespace Sys2Proof.Machine

/-- Run the operation of a program word, from its request to its response (R46, R65). -/
def runWord (w : ProgramWord) (s : State) : Result :=
  match decodeWord w with
  | .ok i => exec i s
  | .error (.unnamedCommandId id) => .refused (.unnamedCommandId id)

/-- One input. While reset is asserted no request is accepted (R210): it has no effect and no
response (log entry 4). An operation that reset cuts off has no response, and its state changes are
overwritten by the reset values (R210, R195). -/
def takeInput (x : Input) (s : State) : Result :=
  match x with
  | .issue w => if s.inReset then .next s else runWord w s
  | .issueCutByReset _ => .next s.assertReset
  | .assertReset => .next s.assertReset
  | .releaseReset => .next s.releaseReset

/-- Take the first waiting input; the next state returns the responses of this step and no other (R29;
log entry 1). With no input waiting the block keeps its state (R201; log entry 3). -/
def takeNext (s : State) : Result :=
  match s.inputs with
  | [] => .next { s with responses := [] }
  | x :: rest => takeInput x { s with inputs := rest, responses := [] }

/-- The state in which the next step runs the table word `w` of `nbits` bits: the host issues it
next, and reset is not asserted (log entry 2). Unchanged where `w` is no word of either format. -/
def placeWord (nbits w : Nat) (s : State) : State :=
  match tableWord nbits w with
  | some word => { s with inReset := false, inputs := .issue word :: s.inputs }
  | none => s

/-- Run instructions one after the other (R73: a pseudo-operation's expansion, in order), with all
their responses in order. No step does this: it gathers what a run observes (R218). -/
def execAll : List Instr → State → Result
  | [], s => .next s
  | i :: is, s => andThen (exec i s) (execAll is)

end Sys2Proof.Machine
end

