-- ==== Sys2Proof/Machine/Step.lean ====
section
/-! DEFINITION. One step: the first waiting input of the host or the reset source. -/

namespace Sys2Proof.Machine

/-- One step of the machine (R7). -/
def step (s : State) : Host.Outcome State Fault Refusal := takeNext s

/-- The state whose next step runs the table word `w` of `nbits` bits. -/
def State.withFetchWord (s : State) (nbits w : Nat) : State := placeWord nbits w s

end Sys2Proof.Machine
end

