-- ==== Sys2Proof/Machine/Assembler.lean ====
section
/-! DEFINITION. The written form of operations, request words and responses (spec/30_encoding.md R72)
and the expansions of the pseudo-operations CRC.BLOCK and RX.FRAME (R73). -/

namespace Sys2Proof.Machine

/-- R72: the instruction of a written line; `none` for a wrong number of operand bytes. -/
def assemble (l : AsmLine) : Option Instr :=
  match l.mnemonic, l.operands with
  | .nop, [] => some .nop
  | .crcClear, [] => some .crcClear
  | .crcUpdate, [d] => some (.crcUpdate d)
  | .crcRead, [] => some .crcRead
  | .encode, [a, b, c, d, e] => some (.encode { p0 := a, p1 := b, p2 := c, p3 := d, p4 := e })
  | .decode, [a, b, c, d, e, f, g, h] =>
    some (.decode { f0 := a, f1 := b, f2 := c, f3 := d, f4 := e, f5 := f, f6 := g, f7 := h })
  | .rxByte, [b] => some (.rxByte b)
  | .rxTimeout, [] => some .rxTimeout
  | .rxFlush, [] => some .rxFlush
  | _, _ => none

/-- R72: the line of an instruction; the reserved codes have no syntax, and a payload row is written
as a pseudo-operation of its own (R73). -/
def disassemble : Instr → Option AsmLine
  | .nop => some { mnemonic := .nop, operands := [] }
  | .crcClear => some { mnemonic := .crcClear, operands := [] }
  | .crcUpdate d => some { mnemonic := .crcUpdate, operands := [d] }
  | .crcRead => some { mnemonic := .crcRead, operands := [] }
  | .encode p => some { mnemonic := .encode, operands := p.toList }
  | .decode f => some { mnemonic := .decode, operands := f.toList }
  | .rxByte b => some { mnemonic := .rxByte, operands := [b] }
  | .rxTimeout => some { mnemonic := .rxTimeout, operands := [] }
  | .rxFlush => some { mnemonic := .rxFlush, operands := [] }
  | .reserved9 | .reservedA | .reservedB | .reservedC | .reservedD | .reservedE | .reservedF => none
  | .cmdGetDeviceInfo _ | .cmdObtainTemperature _ | .cmdSetMeasurementFrequency _ => none
  | .cmdSetDataFormat _ | .cmdStartMeasurement _ | .cmdStopMeasurement _ => none
  | .rspMeasurementData _ | .cmdSaveSettings _ | .cmdGetSerialNumber _ => none
  | .cmdSetMeasurementMode _ | .rspHighSpeedData _ | .cmdConfigureAddress _ => none
  | .cmdSetBaudRate _ => none

/-- R73: `CRC.BLOCK b0, ..., b(k-1)`. -/
def expandCrcBlock (bytes : List Byte) : List Instr := .crcClear :: bytes.map .crcUpdate

/-- R73: `RX.FRAME f0, ..., f7`. -/
def expandRxFrame (f : Frame) : List Instr := f.toList.map .rxByte

/-- One upper-case hexadecimal digit (log entry 15). -/
def hexDigit (n : Nat) : Char := Nat.digitChar n |>.toUpper

/-- `n` hexadecimal digits of `v`, the most significant first. -/
def hexDigits : Nat → Nat → List Char
  | 0, _ => []
  | n + 1, v => hexDigit (v / 16 ^ n % 16) :: hexDigits n v

/-- R72: an operand byte, `0xNN`. -/
def byteText (b : Byte) : List Char := ['0', 'x'] ++ hexDigits 2 b.toNat

/-- R72: a mnemonic as it is written. -/
def mnemonicText : Mnemonic → String
  | .nop => "NOP"
  | .crcClear => "CRC.CLEAR"
  | .crcUpdate => "CRC.UPDATE"
  | .crcRead => "CRC.READ"
  | .encode => "ENCODE"
  | .decode => "DECODE"
  | .rxByte => "RX.BYTE"
  | .rxTimeout => "RX.TIMEOUT"
  | .rxFlush => "RX.FLUSH"

/-- R72: the operand bytes, separated by commas. -/
def operandsText : List Byte → List Char
  | [] => []
  | [b] => byteText b
  | b :: bs => byteText b ++ [',', ' '] ++ operandsText bs

/-- R72: a written line. -/
def lineText (l : AsmLine) : List Char :=
  (mnemonicText l.mnemonic).toList ++
    (if l.operands = [] then [] else ' ' :: operandsText l.operands)

/-- R72: a request word as `op:data`, one hex digit and sixteen. -/
def requestText (w : BitVec 68) : List Char :=
  hexDigits 1 (requestOp w).toNat ++ [':'] ++ hexDigits 16 (requestData w).toNat

/-- R190: the name of a status. -/
def statusText : Status → String
  | .ok => "OK"
  | .framingError => "FRAMING_ERROR"
  | .checksumError => "CHECKSUM_ERROR"
  | .frameTimeout => "FRAME_TIMEOUT"
  | .pending => "PENDING"
  | .flushed => "FLUSHED"
  | .illegalOp => "ILLEGAL_OP"

/-- R72: a response as `STATUS len=n data=0x...`, two digits a byte, one zero where there is none. -/
def responseText (st : Status) (bytes : List Byte) : List Char :=
  (statusText st).toList ++ " len=".toList ++ hexDigits 1 bytes.length ++ " data=0x".toList ++
    (if bytes = [] then ['0'] else bytes.flatMap fun b => hexDigits 2 b.toNat)

end Sys2Proof.Machine
end

