-- ==== Sys2Proof/Config.lean ====
section
/-! DEFINITION. The parameters that spec/00_scope.md R6 leaves open. Each is an opaque constant, so
that nothing can be proved from its value. None of them changes the result of an operation of the
block (R6). The fixed parameters of R5 are definitions of Sys2Proof/Machine/Codec.lean. -/

namespace Sys2Proof

/-- `OP_LATENCY`: the time from a request to its response. No rule reads it (R217, U1); it stands
here because R6 lists it (log entry 13). -/
opaque Config.opLatency : Nat

/-- `T_RX`: the deframer's timeout, measured by the host. No rule of the block reads it (R146). -/
opaque Config.tRx : Nat

/-- `T_PACE`: the host's pacing interval. No rule of the block reads it (R214). -/
opaque Config.tPace : Nat

/-- Which of the two upper bounds of the measurement frequency holds (conflict C2, D26). -/
opaque Config.freqMaxIs2000 : Bool

/-- Which baud rates the unpublished BaudRateTable lists, beyond those the spec names (R173, D27). -/
opaque Config.baudRateListed : Nat → Bool

/-- `BAUD_SEL`: the selector code of a listed baud rate (R173, D27). -/
opaque Config.baudSelector : Nat → Byte

/-- The argument byte that holds the baud selector: the spec does not say which (R173, D27). -/
opaque Config.baudSelectorAt : Fin 4

end Sys2Proof
end

