-- ==== Sys2Proof/Machine/Payloads.lean ====
section
/-! DEFINITION. The host's side of the data that frames carry: the command builders
(spec/45_command_payloads.md R177) and the layouts the host reads (R174 to R176). The block performs
none of these checks (spec/60_exceptions.md R192). -/

namespace Sys2Proof.Machine

/-- The errors of the source's taxonomy that are the host's, kept apart from the block's statuses
(R192). -/
inductive HostError where
  | outOfRange
  | unsupportedBaudRate
  | malformedPayload
  | unexpectedResponse
  deriving DecidableEq, Repr

/-- `FREQ_MAX`, 500 or 2000 (R6, conflict C2, D26). -/
def freqMax : Nat := if Config.freqMaxIs2000 then 2000 else 500

/-- The rates the BaudRateTable lists: 0 (adaptive), 300, 115200 and 921600 are named as listed, 12345
is named as not listed, no rate lies outside 0 and 300 to 921600, and the rest is open (R173; DEDUCED,
log entry 11). -/
def baudRateSupported (rate : Nat) : Bool :=
  if rate = 0 ∨ rate = 300 ∨ rate = 115200 ∨ rate = 921600 then true
  else if rate = 12345 then false
  else if rate < 300 ∨ 921600 < rate then false
  else Config.baudRateListed rate

/-- R173, D27: the argument of set-baud-rate, the selector in the byte that the source leaves open.
The other bytes are zero, as in every selector form of R70 (DEDUCED, log entry 11). -/
def baudArg (rate : Nat) : Arg :=
  let sel := Config.baudSelector rate
  match Config.baudSelectorAt with
  | 0 => { a0 := sel, a1 := 0, a2 := 0, a3 := 0 }
  | 1 => { a0 := 0, a1 := sel, a2 := 0, a3 := 0 }
  | 2 => { a0 := 0, a1 := 0, a2 := sel, a3 := 0 }
  | 3 => { a0 := 0, a1 := 0, a2 := 0, a3 := sel }

/-- R177: the row each builder sends, or the host's own refusal (R163, R173). -/
def buildCommand : Command → Except HostError Instr
  | .getDeviceInfo => .ok (.cmdGetDeviceInfo (argSelector 0x00#8))
  | .setFrequency hz =>
    if 1 ≤ hz ∧ hz ≤ freqMax then .ok (.cmdSetMeasurementFrequency (argBe4 hz))
    else .error .outOfRange
  | .setFormatByte => .ok (.cmdSetDataFormat (argSelector 0x01#8))
  | .setFormatPixhawk => .ok (.cmdSetDataFormat (argSelector 0x02#8))
  | .startMeasurement => .ok (.cmdStartMeasurement (argSelector 0x00#8))
  | .stopMeasurement => .ok (.cmdStopMeasurement (argSelector 0x00#8))
  | .saveSettings => .ok (.cmdSaveSettings (argSelector 0x00#8))
  | .setModeContinuous => .ok (.cmdSetMeasurementMode (argSelector 0x00#8))
  | .setModeSingle => .ok (.cmdSetMeasurementMode (argSelector 0x01#8))
  | .setModeContinuousStopped => .ok (.cmdSetMeasurementMode (argSelector 0x02#8))
  | .setBaud rate =>
    if baudRateSupported rate then .ok (.cmdSetBaudRate (baudArg rate))
    else .error .unsupportedBaudRate

/-- R124, I1: a host that holds a payload as a byte sequence can present it to ENCODE only when it has
five bytes. -/
def presentPayload : List Byte → Except HostError Instr
  | [a, b, c, d, e] => .ok (.encode { p0 := a, p1 := b, p2 := c, p3 := d, p4 := e })
  | _ => .error .malformedPayload

/-- The payload an `OK` response of DECODE or RX_BYTE carries, five bytes (R62, R131). -/
def responsePayload (r : Response) : Option Payload :=
  if r.status = statusCode .ok ∧ r.len = 5#4 then some (operandPayload r.data) else none

/-- R176: a decoded measurement response. -/
structure Measurement where
  errorCode : Byte
  distanceMm : Nat
  deriving DecidableEq, Repr

/-- R176: the host first checks the command id, then reads the fields. -/
def readMeasurement (p : Payload) : Except HostError Measurement :=
  if p.p0 = 0x07#8 then .ok { errorCode := p.p1, distanceMm := be [p.p2, p.p3, p.p4] }
  else .error .unexpectedResponse

/-- R174: device-info frame 1. -/
structure DeviceVersion where
  model : Byte
  fwMajor : Byte
  fwMinor : Byte
  fwPatch : Byte
  deriving DecidableEq, Repr

/-- R174: the fields of device-info frame 1. -/
def readDeviceVersion (p : Payload) : Except HostError DeviceVersion :=
  if p.p0 = 0x01#8 then .ok { model := p.p1, fwMajor := p.p2, fwMinor := p.p3, fwPatch := p.p4 }
  else .error .unexpectedResponse

/-- R175: device-info frame 2. -/
structure DeviceSettings where
  dataFormat : Byte
  measurementMode : Byte
  frequency : Nat
  deriving DecidableEq, Repr

/-- R175: the fields of device-info frame 2; the frequency is `BE([freq_hi, freq_lo])`. -/
def readDeviceSettings (p : Payload) : Except HostError DeviceSettings :=
  if p.p0 = 0x01#8 then
    .ok { dataFormat := p.p1, measurementMode := p.p2, frequency := be [p.p3, p.p4] }
  else .error .unexpectedResponse

end Sys2Proof.Machine
end

