-- ==== Sys2Proof/Safety.lean ====
section
/-! DEFINITION. The invariant of the deframer (spec/10_state.md R24), what a response port value may be
(spec/30_encoding.md R61, R62; spec/60_exceptions.md R190), and which runs are safe. -/

namespace Sys2Proof.Machine

/-- R24: exactly the slots below `rx_count` hold values (`rx_count` is at most 7 by its type). -/
abbrev RxInv (s : State) : Prop := ∀ i : Fin 8, (s.rxBuf[i]).isSome = decide (i < s.rxCount)

/-- The accumulator holds exactly the bytes `bs`: `rx_count` is their number, slot `i` holds byte `i`,
and every other slot holds no value (R22, R23). -/
abbrev Holds (s : State) (bs : List Byte) : Prop :=
  s.rxCount.val = bs.length ∧ ∀ i : Fin 8, s.rxBuf[i] = bs[i.val]?

/-- The codes `rsp_status` takes: R190 reserves 6 to E, which are never produced. -/
def producedCodes : List (BitVec 4) := [0x0#4, 0x1#4, 0x2#4, 0x3#4, 0x4#4, 0x5#4, 0xF#4]

/-- R61, R62, R190: a status that is produced, at most eight result bytes, and zeros above them. -/
abbrev ResponseOk (r : Response) : Prop :=
  r.status ∈ producedCodes ∧ r.len.toNat ≤ 8 ∧ r.data.toNat < 2 ^ (8 * r.len.toNat)

/-- Every response that the last step returned is one the port may show. -/
abbrev ResponsesOk (s : State) : Prop := ∀ r ∈ s.responses, ResponseOk r

/-- The host issues only words that the table names: every request word, and payload words with a
named command id. -/
def inputNamed : Input → Bool
  | .issue w => w.wellFormed
  | .issueCutByReset _ => true
  | .assertReset => true
  | .releaseReset => true

/-- Every waiting input is named. -/
abbrev InputsNamed (s : State) : Prop := ∀ x ∈ s.inputs, inputNamed x = true

/-- A safe state: the invariant of the deframer holds and every waiting input is named. -/
abbrev Safe (s : State) : Prop := RxInv s ∧ InputsNamed s

/-- The same outcome with its next state changed. -/
def mapNext (f : State → State) (r : Result) : Result := andThen r fun s => .next (f s)

/-- `n` steps, one after the other. -/
def runSteps : Nat → State → Result
  | 0, s => .next s
  | n + 1, s => andThen (step s) (runSteps n)

/-- R7, R218: what a run of `n` steps observes, the responses that its steps return, in order. -/
def observed : Nat → State → List Response
  | 0, _ => []
  | n + 1, s =>
    match step s with
    | .next t => t.responses ++ observed n t
    | _ => []

/-- The operations of the streaming CRC unit that write `crc_reg` (R20). -/
def writesCrc : Instr → Bool
  | .crcClear => true
  | .crcUpdate _ => true
  | _ => false

/-- The instructions that write the accumulator: the operations of the deframer (R20), and the payload
rows that stand for received frames (log entry 5). -/
def writesAccumulator : Instr → Bool
  | .rxByte _ => true
  | .rxTimeout => true
  | .rxFlush => true
  | .rspMeasurementData _ => true
  | .rspHighSpeedData _ => true
  | _ => false

/-- R140: the PENDING responses to the first bytes of a frame. -/
def pendingResponses (f : Frame) : List Response :=
  (List.range 7).map fun k =>
    { status := 0x4#4, len := BitVec.ofNat 4 (k + 1), data := pack (f.toList.take (k + 1)) }

/-- R131, R190: the response to a whole frame, by its own three conditions. -/
def frameResponse (f : Frame) : Response :=
  if f.f0 = 0x55#8 ∧ f.f7 = 0xAA#8 then
    if crc8 [f.f1, f.f2, f.f3, f.f4, f.f5] = f.f6 then
      { status := 0x0#4, len := 5#4, data := 0#24 ++ f.f1 ++ f.f2 ++ f.f3 ++ f.f4 ++ f.f5 }
    else { status := 0x2#4, len := 8#4, data := dataOfFrame f }
  else { status := 0x1#4, len := 8#4, data := dataOfFrame f }

/-- R68, R121: the frame of a payload, in the bits of `rsp_data`. -/
def framedData (p : Payload) : Data :=
  0x55#8 ++ p.p0 ++ p.p1 ++ p.p2 ++ p.p3 ++ p.p4 ++ crc8 [p.p0, p.p1, p.p2, p.p3, p.p4] ++ 0xAA#8

end Sys2Proof.Machine
end

