-- ==== Sys2Proof/Certificates/Slice0/Obligations.lean ====
section
/-! DEFINITION. The statements for the provers. -/

open Sys2Proof Sys2Proof.Machine

/-! ## Reset and the inputs -/

/-- R31: what reset leaves in the three elements of the spec's state. -/
def Obligations.ResetLeavesTheResetValues : Prop :=
  State.reset.crcReg = 0x00#8 ∧ State.reset.rxCount.val = 0 ∧ ∀ i : Fin 8, State.reset.rxBuf[i] = none

/-- The reset state meets the invariants of the steps (R24, R30, R31). The empty inputs and responses
are the model's choice (log entries 1 and 2). -/
def Obligations.ResetStateIsSafe : Prop :=
  Safe State.reset ∧ ResponsesOk State.reset

/-- R210, in single steps: asserting reset, cutting an operation off, a request under reset, releasing
reset; none returns a response. A request that meets reset is dropped (the model's choice, log entry 4),
and with no input waiting a step keeps the state (log entry 3). -/
def Obligations.ResetAndIdleStepByStep : Prop :=
  ∀ (s : State) (w : ProgramWord) (rest : List Input),
    (s.inputs = .assertReset :: rest →
      step s = .next { s with
        crcReg := 0x00#8, rxBuf := Vector.replicate 8 none, rxCount := 0, inReset := true,
        inputs := rest, responses := [] }) ∧
    (s.inputs = .issueCutByReset w :: rest →
      step s = .next { s with
        crcReg := 0x00#8, rxBuf := Vector.replicate 8 none, rxCount := 0, inReset := true,
        inputs := rest, responses := [] }) ∧
    (s.inputs = .issue w :: rest → s.inReset = true →
      step s = .next { s with inputs := rest, responses := [] }) ∧
    (s.inputs = .releaseReset :: rest →
      step s = .next { s with inReset := false, inputs := rest, responses := [] }) ∧
    (s.inputs = [] → step s = .next { s with responses := [] })

/-- R210: from any state, an assertion of reset (with or without an operation in flight), any requests
while it is asserted, and its release leave the reset values and give no response. That these requests
are dropped is the model's choice (log entry 4). -/
def Obligations.ResetEpisodeLeavesTheResetValues : Prop :=
  ∀ (s : State) (start : Input) (ws : List ProgramWord) (rest : List Input),
    (start = .assertReset ∨ ∃ w, start = .issueCutByReset w) →
    s.inputs = start :: (ws.map Input.issue ++ .releaseReset :: rest) →
    runSteps (ws.length + 2) s = .next { s with
      crcReg := 0x00#8, rxBuf := Vector.replicate 8 none, rxCount := 0, inReset := false,
      inputs := rest, responses := [] } ∧
    observed (ws.length + 2) s = []

/-- A step takes the next word and is the meaning of the instruction it decodes to, with none of the
earlier responses (R29). The waiting words are the model's own field (log entry 2). -/
def Obligations.StepRunsTheDecodedInstruction : Prop :=
  ∀ (s : State) (w : ProgramWord) (rest : List Input) (i : Instr),
    s.inputs = .issue w :: rest → s.inReset = false → decodeWord w = .ok i →
    step s = exec i { s with inputs := rest, responses := [] }

/-- A table word that is placed for the next step is run by it. How a word is placed (first of the
waiting inputs, with reset released) is the model's choice (log entry 2), and so is how a row's width
gives its format (log entry 14). -/
def Obligations.PlacedTableWordIsRun : Prop :=
  ∀ (s : State) (nbits w : Nat) (i : Instr), decodeTableWord nbits w = some i →
    step (s.withFetchWord nbits w) = exec i { s with inReset := false, responses := [] }

/-- R61, R210, R218: a request gets exactly one response, within the widths and codes of the port; a
request that reset cuts off gets none; and a run of requests observes one response to each, those of the
instructions one after the other. The waiting inputs are the model's own field (log entry 2). -/
def Obligations.EveryRequestGetsOneResponse : Prop :=
  ∀ (s : State) (w : BitVec 68) (rest : List Input), RxInv s →
    (s.inputs = .issue (.request w) :: rest → s.inReset = false →
      ∃ t r, step s = .next t ∧ t.responses = [r] ∧ ResponseOk r) ∧
    (s.inputs = .issueCutByReset (.request w) :: rest →
      ∃ t, step s = .next t ∧ t.responses = []) ∧
    ∀ ws : List (BitVec 68), s.inputs = ws.map (fun v => .issue (.request v)) → s.inReset = false →
      ∃ t, runSteps ws.length s = .next t ∧ (observed ws.length s).length = ws.length ∧
        execAll (ws.map decodeRequest) { s with inputs := [], responses := [] } =
          .next { t with responses := observed ws.length s }

/-! ## Invariants of every step -/

/-- R24: every step keeps the invariant of the accumulator. -/
def Obligations.EveryStepKeepsTheAccumulatorInvariant : Prop :=
  ∀ s t : State, RxInv s → step s = .next t → RxInv t

/-- R61, R62, R190: from every state, a step returns at most eight responses, and only ones whose
status is produced, whose length is at most 8 and whose data is zero above the result bytes. (A payload
row returns more than one: the model's reading, log entries 5 and 6.) -/
def Obligations.EveryStepReturnsOnlyWellFormedResponses : Prop :=
  ∀ s t : State, step s = .next t → ResponsesOk t ∧ t.responses.length ≤ 8

/-- From a safe state no run stops, and every state it reaches is safe. That waiting words be named is a
premise of the model's own (log entries 2 and 7). -/
def Obligations.SafeStatesNeverStop : Prop :=
  ∀ (n : Nat) (s : State), Safe s →
    ∃ t : State, runSteps n s = .next t ∧ Safe t

/-! ## Decoding and encoding -/

/-- Every instruction is what its own word decodes to. -/
def Obligations.DecodeOfEncodeIsTheInstruction : Prop :=
  ∀ i : Instr, decodeWord (encodeInstr i) = .ok i

/-- R63, R64, R72: the word of the instruction a request decodes to is that request with its ignored
lanes cleared, and a payload word that decodes is the word of its instruction. -/
def Obligations.EncodeOfDecodeClearsIgnoredLanes : Prop :=
  (∀ w : BitVec 68, ∃ v : BitVec 68, encodeInstr (decodeRequest w) = .request v ∧
    requestOp v = requestOp w ∧
    (requestData v).toNat = (requestData w).toNat % 2 ^ (8 * operandBytesOf (requestOp w))) ∧
  ∀ (w : BitVec 40) (i : Instr), decodePayload w = .ok i → encodeInstr i = .payload w

/-- R65: every request word selects exactly one row of the table, the row of its instruction, and
`req_data` never changes which. -/
def Obligations.EveryRequestWordSelectsOneRow : Prop :=
  (∀ w : BitVec 68, instrRow (decodeRequest w) ∈ opcodeTable ∧
    ∀ r ∈ opcodeTable, (ProgramWord.request w).fits r = true ↔ r = instrRow (decodeRequest w)) ∧
  ∀ v w : BitVec 68, requestOp v = requestOp w →
    instrRow (decodeRequest v) = instrRow (decodeRequest w)

/-- R71: a payload word decodes exactly when its command id is named, to the one row it fits; the
rejection of the others by their id is the model's choice (log entry 7). -/
def Obligations.PayloadWordsDecodeByCommandId : Prop :=
  ∀ w : BitVec 40,
    ((ProgramWord.payload w).wellFormed = true →
      ∃ i, decodePayload w = .ok i ∧
        ∀ r ∈ opcodeTable, (ProgramWord.payload w).fits r = true ↔ r = instrRow i) ∧
    ((ProgramWord.payload w).wellFormed = false →
      decodePayload w = .error (.unnamedCommandId (w.extractLsb' 32 8)) ∧
        ∀ r ∈ opcodeTable, (ProgramWord.payload w).fits r = false)

/-- R64, R65: each request word, with any bits in its ignored lanes, decodes to its operation with its
operand bytes in place. -/
def Obligations.RequestLanesAreReadAsTheTableSays : Prop :=
  ∀ (x : Data) (j7 : BitVec 56) (j3 : BitVec 24) (b : Byte) (p : Payload) (f : Frame),
    decodeRequest (0x0#4 ++ x) = .nop ∧ decodeRequest (0x1#4 ++ x) = .crcClear ∧
    decodeRequest (0x2#4 ++ (j7 ++ b)) = .crcUpdate b ∧ decodeRequest (0x3#4 ++ x) = .crcRead ∧
    decodeRequest (0x4#4 ++ (j3 ++ p.p0 ++ p.p1 ++ p.p2 ++ p.p3 ++ p.p4)) = .encode p ∧
    decodeRequest (0x5#4 ++ (f.f0 ++ f.f1 ++ f.f2 ++ f.f3 ++ f.f4 ++ f.f5 ++ f.f6 ++ f.f7)) =
      .decode f ∧
    decodeRequest (0x6#4 ++ (j7 ++ b)) = .rxByte b ∧ decodeRequest (0x7#4 ++ x) = .rxTimeout ∧
    decodeRequest (0x8#4 ++ x) = .rxFlush ∧ decodeRequest (0x9#4 ++ x) = .reserved9 ∧
    decodeRequest (0xA#4 ++ x) = .reservedA ∧ decodeRequest (0xB#4 ++ x) = .reservedB ∧
    decodeRequest (0xC#4 ++ x) = .reservedC ∧ decodeRequest (0xD#4 ++ x) = .reservedD ∧
    decodeRequest (0xE#4 ++ x) = .reservedE ∧ decodeRequest (0xF#4 ++ x) = .reservedF

/-- R63: two requests of one operation that agree on its operand lanes have the same outcome, whatever
the ignored bits. -/
def Obligations.IgnoredLanesNeverChangeTheOutcome : Prop :=
  ∀ (v w : BitVec 68) (s : State), requestOp v = requestOp w →
    (requestData v).toNat % 2 ^ (8 * operandBytesOf (requestOp w)) =
      (requestData w).toNat % 2 ^ (8 * operandBytesOf (requestOp w)) →
    runWord (.request v) s = runWord (.request w) s

/-- Words written out from the encodings of R60, R64 and R160, and what they decode to. That a request
row has 72 bits in whole bytes is the model's inference (log entry 14), and that the unnamed id `0x09`
decodes to nothing is the model's choice (log entry 7). -/
def Obligations.WrittenWordsDecode : Prop :=
  decodeTableWord 72 0x00000000000000000 = some .nop ∧
  decodeTableWord 72 0x200000000000000A6 = some (.crcUpdate 0xA6#8) ∧
  decodeTableWord 72 0x4FFFFFF0D00000001 = some (.encode ⟨0x0D#8, 0#8, 0#8, 0#8, 0x01#8⟩) ∧
  decodeTableWord 72 0x6FFFFFFFFFFFFFF55 = some (.rxByte 0x55#8) ∧
  decodeTableWord 72 0xF0000000000001234 = some .reservedF ∧
  decodeTableWord 40 0x0700000DAC = some (.rspMeasurementData ⟨0#8, 0#8, 0x0D#8, 0xAC#8⟩) ∧
  decodeTableWord 40 0x0900000000 = none

/-- R63: lane selection undoes result packing, for every sequence that the ports can carry. -/
def Obligations.UnpackUndoesPack : Prop :=
  ∀ bs : List Byte, bs.length ≤ 8 → unpack bs.length (pack bs) = bs

/-- R9: `BE` and `BE_n` undo each other. -/
def Obligations.BigEndianBytesUndoTheInteger : Prop :=
  (∀ n v : Nat, v < 256 ^ n → be (beBytes n v) = v ∧ (beBytes n v).length = n) ∧
  ∀ bs : List Byte, beBytes bs.length (be bs) = bs ∧ be bs < 256 ^ bs.length

/-- R64, R72: a written line is an instruction exactly when it has the right number of operand bytes,
and writing and reading lines undo each other. -/
def Obligations.WrittenLinesAndInstructionsAgree : Prop :=
  (∀ l : AsmLine, (assemble l).isSome = l.wellFormed) ∧
  ∀ (l : AsmLine) (i : Instr), assemble l = some i ↔ disassemble i = some l

/-! ## The CRC generator -/

/-- R101: `crc8` is the fold of the step, and the source's own vectors. -/
def Obligations.CrcOfSequences : Prop :=
  (∀ (bs : List Byte) (b : Byte), crc8 (bs ++ [b]) = crcStep (crc8 bs) b) ∧
  crc8 [] = 0x00#8 ∧
  crc8 [0x06#8, 0#8, 0#8, 0#8, 0#8] = 0x88#8 ∧
  crc8 [0x08#8, 0#8, 0#8, 0#8, 0#8] = 0x3E#8 ∧
  crc8 [0x08#8, 0#8, 0#8, 0#8] = 0x1C#8 ∧
  crc8 [0x07#8, 0#8, 0#8, 0x05#8, 0xAD#8] = 0x9C#8

/-- R104: the lookup table has 256 cells and gives every step of the bitwise generator. -/
def Obligations.CrcTableGivesEveryStep : Prop :=
  crcTable.length = 256 ∧ ∀ c b : Byte, crcTable[(c ^^^ b).toNat]? = some (crcStep c b)

/-- R105: the table is linear and a permutation with `0x00` its only zero, and the step is a bijection
in each argument. -/
def Obligations.CrcStepIsLinearAndBijective : Prop :=
  (∀ a b : Byte, crcStep 0x00#8 (a ^^^ b) = crcStep 0x00#8 a ^^^ crcStep 0x00#8 b) ∧
  (∀ x : Byte, crcStep 0x00#8 x = 0x00#8 ↔ x = 0x00#8) ∧
  (∀ b : Byte, Function.Bijective fun c => crcStep c b) ∧
  ∀ c : Byte, Function.Bijective fun b => crcStep c b

/-- R106: the CRC over a sequence and one more byte is zero exactly when that byte is the CRC of the
sequence. -/
def Obligations.CrcResidueIsZeroExactlyOnTheCrc : Prop :=
  ∀ (bs : List Byte) (x : Byte), crc8 (bs ++ [x]) = 0x00#8 ↔ x = crc8 bs

/-- R110: leading zero bytes do not change the CRC. -/
def Obligations.LeadingZerosDoNotChangeTheCrc : Prop :=
  ∀ (n : Nat) (bs : List Byte), crc8 (List.replicate n 0x00#8 ++ bs) = crc8 bs

/-- R103: the CRC of a sequence is the remainder of `M(x) * x^8` modulo `x^8 + x^5 + x^4 + 1` over
GF(2), where bit 0 of the last byte is the coefficient of `x^0` of `M`. -/
def Obligations.CrcIsThePolynomialRemainder : Prop :=
  ∀ bs : List Byte,
    (∑ i ∈ Finset.range 8, if (crc8 bs).getLsbD i then Polynomial.X ^ i else 0) =
      Polynomial.modByMonic
        ((∑ i ∈ Finset.range (8 * bs.length), if (be bs).testBit i then Polynomial.X ^ i else 0) *
          Polynomial.X ^ 8)
        (Polynomial.X ^ 8 + Polynomial.X ^ 5 + Polynomial.X ^ 4 + 1 : Polynomial (ZMod 2))

/-- R107: CRC_CLEAR, and that its `req_data` is ignored. -/
def Obligations.CrcClearResult : Prop :=
  ∀ (s : State) (x : Data), decodeRequest (0x1#4 ++ x) = .crcClear ∧ exec .crcClear s =
    .next { s with crcReg := 0x00#8, responses := s.responses ++ [⟨0x0#4, 1#4, 0#64⟩] }

/-- R108: CRC_UPDATE, and that it takes `d` from `req_data[7:0]` and ignores the rest. -/
def Obligations.CrcUpdateResult : Prop :=
  ∀ (s : State) (d : Byte) (j : BitVec 56),
    decodeRequest (0x2#4 ++ (j ++ d)) = .crcUpdate d ∧ exec (.crcUpdate d) s = .next { s with
      crcReg := crcStep s.crcReg d,
      responses := s.responses ++ [⟨0x0#4, 1#4, (crcStep s.crcReg d).setWidth 64⟩] }

/-- R109: CRC_READ, and that its `req_data` is ignored. -/
def Obligations.CrcReadResult : Prop :=
  ∀ (s : State) (x : Data), decodeRequest (0x3#4 ++ x) = .crcRead ∧ exec .crcRead s =
    .next { s with responses := s.responses ++ [⟨0x0#4, 1#4, s.crcReg.setWidth 64⟩] }

/-- R73, R108: `CRC.BLOCK` leaves the CRC of its bytes in `crc_reg` and in its last response, gives one
response to each operation, and changes nothing else. -/
def Obligations.CrcBlockLeavesTheCrcOfItsBytes : Prop :=
  ∀ (bytes : List Byte) (s : State), ∃ new : List Response,
    execAll (expandCrcBlock bytes) s =
      .next { s with crcReg := crc8 bytes, responses := s.responses ++ new } ∧
    new.length = bytes.length + 1 ∧
    new.getLast? = some ⟨0x0#4, 1#4, (crc8 bytes).setWidth 64⟩

/-- R21: `crc_reg` after any instruction: CRC_CLEAR and CRC_UPDATE write it, no other does. What the
payload rows do is the model's reading (log entry 5). -/
def Obligations.OnlyTheCrcOperationsWriteCrcReg : Prop :=
  ∀ (i : Instr) (s t : State), exec i s = .next t →
    (i = .crcClear → t.crcReg = 0x00#8) ∧
    (∀ d, i = .crcUpdate d → t.crcReg = crcStep s.crcReg d) ∧
    (writesCrc i = false → t.crcReg = s.crcReg)

/-! ## The encoder and the decoder -/

/-- R121: ENCODE, and where it takes its payload from. -/
def Obligations.EncodeResult : Prop :=
  ∀ (s : State) (p : Payload) (j : BitVec 24),
    decodeRequest (0x4#4 ++ (j ++ p.p0 ++ p.p1 ++ p.p2 ++ p.p3 ++ p.p4)) = .encode p ∧
    exec (.encode p) s = .next { s with responses := s.responses ++ [⟨0x0#4, 8#4, framedData p⟩] }

/-- R123: the length of a framed payload, its delimiters, its payload bytes and its CRC byte, and that
unwrapping gives the payload back. -/
def Obligations.WrapProperties : Prop :=
  (∀ p : List Byte, (wrap p).length = p.length + 3 ∧ (wrap p).head? = some 0x55#8 ∧
    (wrap p).getLast? = some 0xAA#8 ∧ (∀ i, i < p.length → (wrap p)[1 + i]? = p[i]?) ∧
    (wrap p)[p.length + 1]? = some (crc8 p) ∧ unwrap (wrap p) = .ok p) ∧
  ∀ p : Payload, (wrap p.toList).length = 8

/-- R130: when each verdict is given, for a frame of any length. -/
def Obligations.UnwrapVerdicts : Prop :=
  ∀ f : List Byte,
    (unwrap f = .framingError ↔
      f.length < 3 ∨ f.head? ≠ some 0x55#8 ∨ f.getLast? ≠ some 0xAA#8) ∧
    (unwrap f = .checksumError ↔
      3 ≤ f.length ∧ f.head? = some 0x55#8 ∧ f.getLast? = some 0xAA#8 ∧
        f.dropLast.getLast? ≠ some (crc8 f.dropLast.dropLast.tail)) ∧
    (∀ p, unwrap f = .ok p ↔
      3 ≤ f.length ∧ f.head? = some 0x55#8 ∧ f.getLast? = some 0xAA#8 ∧
        f.dropLast.getLast? = some (crc8 f.dropLast.dropLast.tail) ∧
        p = f.dropLast.dropLast.tail)

/-- R132: a frame of any length is accepted with a payload exactly when it is that payload framed. -/
def Obligations.UnwrapAcceptsExactlyFramedPayloads : Prop :=
  ∀ f p : List Byte, unwrap f = .ok p ↔ f = wrap p

/-- R131: DECODE, and where it takes its frame from. -/
def Obligations.DecodeResult : Prop :=
  ∀ (s : State) (f : Frame),
    decodeRequest (0x5#4 ++ (f.f0 ++ f.f1 ++ f.f2 ++ f.f3 ++ f.f4 ++ f.f5 ++ f.f6 ++ f.f7)) =
      .decode f ∧
    exec (.decode f) s = .next { s with responses := s.responses ++ [frameResponse f] }

/-- R132: DECODE accepts exactly the frames that ENCODE produces, and returns their payloads. -/
def Obligations.DecodeAcceptsExactlyWhatEncodeProduces : Prop :=
  ∀ (f : Frame) (s : State), ∃ r : Response,
    exec (.decode f) s = .next { s with responses := s.responses ++ [r] } ∧
    ∀ p : Payload,
      (r.status = 0x0#4 ∧ responsePayload r = some p) ↔
        exec (.encode p) s =
          .next { s with responses := s.responses ++ [⟨0x0#4, 8#4, dataOfFrame f⟩] }

/-- R134: one changed byte of an accepted frame is always detected, as a framing error in byte 0 or 7
and as a checksum error in bytes 1 to 6. -/
def Obligations.OneChangedByteIsDetected : Prop :=
  ∀ (f g : Frame) (i : Fin 8) (v : Byte) (s : State),
    (frameResponse f).status = 0x0#4 → f.toList[i.val]? ≠ some v →
    g.toList = f.toList.set i.val v →
    exec (.decode g) s = .next { s with responses := s.responses ++
      [⟨if i = 0 ∨ i = 7 then 0x1#4 else 0x2#4, 8#4, dataOfFrame g⟩] }

/-! ## The deframer -/

/-- R140: RX_BYTE, where it takes its byte from, what it does before the eighth byte of a frame, and on
it. -/
def Obligations.RxByteResult : Prop :=
  ∀ (s : State) (bs : List Byte) (b : Byte) (j : BitVec 56), Holds s bs →
    decodeRequest (0x6#4 ++ (j ++ b)) = .rxByte b ∧
    (bs.length < 7 → ∃ t : State, exec (.rxByte b) s = .next t ∧ Holds t (bs ++ [b]) ∧
      t = { s with
        rxBuf := t.rxBuf, rxCount := t.rxCount,
        responses := s.responses ++
          [⟨0x4#4, BitVec.ofNat 4 (bs.length + 1), pack (bs ++ [b])⟩] }) ∧
    (bs.length = 7 → ∃ t : State, exec (.rxByte b) s = .next t ∧ Holds t [] ∧
      t = { s with
        rxBuf := t.rxBuf, rxCount := t.rxCount,
        responses := s.responses ++ [match unwrap (bs ++ [b]) with
          | .ok p => ⟨0x0#4, 5#4, pack p⟩
          | .framingError => ⟨0x1#4, 8#4, pack (bs ++ [b])⟩
          | .checksumError => ⟨0x2#4, 8#4, pack (bs ++ [b])⟩] })

/-- R142: RX_TIMEOUT, and that its `req_data` is ignored. -/
def Obligations.RxTimeoutResult : Prop :=
  ∀ (s : State) (bs : List Byte) (x : Data), Holds s bs →
    decodeRequest (0x7#4 ++ x) = .rxTimeout ∧ exec .rxTimeout s = .next { s with
    rxBuf := Vector.replicate 8 none, rxCount := 0,
    responses := s.responses ++ [⟨0x3#4, BitVec.ofNat 4 bs.length, pack bs⟩] }

/-- R143: RX_FLUSH, and that its `req_data` is ignored. -/
def Obligations.RxFlushResult : Prop :=
  ∀ (s : State) (bs : List Byte) (x : Data), Holds s bs →
    decodeRequest (0x8#4 ++ x) = .rxFlush ∧ exec .rxFlush s = .next { s with
    rxBuf := Vector.replicate 8 none, rxCount := 0,
    responses := s.responses ++ [⟨0x5#4, BitVec.ofNat 4 bs.length, pack bs⟩] }

/-- U3: where a slot below `rx_count` holds no value, which no run from reset reaches (R24), the
operations that read the accumulator are refused by name, and RX_BYTE is (log entry 8). -/
def Obligations.AbsentSlotsAreRefused : Prop :=
  ∀ (s : State) (i : Fin 8) (b : Byte), i < s.rxCount → s.rxBuf[i] = none →
    exec .rxTimeout s = .refused .rxSlotAbsent ∧ exec .rxFlush s = .refused .rxSlotAbsent ∧
    exec (.rxByte b) s = .refused .rxSlotAbsent

/-- R22, R24: the accumulator invariant says that the slots hold exactly the bytes of some sequence of
at most seven. -/
def Obligations.AccumulatorInvariantIsHoldingBytes : Prop :=
  ∀ s : State, RxInv s ↔ ∃ bs : List Byte, bs.length ≤ 7 ∧ Holds s bs

/-- R145: from an empty accumulator, eight RX_BYTEs give seven PENDING responses and then the response
of DECODE, and leave the accumulator empty and `crc_reg` as it was. -/
def Obligations.RxFrameAnswersAsDecode : Prop :=
  ∀ (f : Frame) (s : State), Holds s [] → ∃ r : Response,
    exec (.decode f) s = .next { s with responses := s.responses ++ [r] } ∧
    execAll (expandRxFrame f) s =
      .next { s with responses := s.responses ++ pendingResponses f ++ [r] }

/-- R141, R147: a stream of bytes is cut into windows of eight, each judged by itself, whatever the
verdicts before it. -/
def Obligations.StreamsAreCutIntoWindowsOfEight : Prop :=
  ∀ (fs : List Frame) (s : State), Holds s [] →
    execAll (fs.flatMap expandRxFrame) s = .next { s with
      responses := s.responses ++ fs.flatMap fun f => pendingResponses f ++ [frameResponse f] }

/-- R142, R146: a timeout after any number of bytes below eight reports exactly those bytes and leaves
the accumulator empty. -/
def Obligations.TimeoutReportsTheBytesSoFar : Prop :=
  ∀ (bs : List Byte) (s : State), Holds s [] → bs.length ≤ 7 → ∃ new : List Response,
    execAll (bs.map Instr.rxByte ++ [.rxTimeout]) s = .next { s with
      responses := s.responses ++ new ++ [⟨0x3#4, BitVec.ofNat 4 bs.length, pack bs⟩] } ∧
    new.length = bs.length ∧ ∀ r ∈ new, r.status = 0x4#4

/-- R22, R23: no other instruction writes the accumulator. What the payload rows do is the model's
reading (log entry 5). -/
def Obligations.OnlyTheDeframerWritesTheAccumulator : Prop :=
  ∀ (i : Instr) (s t : State), exec i s = .next t → writesAccumulator i = false →
    t.rxBuf = s.rxBuf ∧ t.rxCount = s.rxCount

/-! ## Independence and frames -/

/-- R144: the deframer's operations neither read nor write `crc_reg`; the CRC, encoder and decoder
operations neither read nor write the accumulator. -/
def Obligations.CrcUnitAndDeframerShareNoState : Prop :=
  (∀ i : Instr, i = .rxTimeout ∨ i = .rxFlush ∨ (∃ b, i = .rxByte b) → ∀ (s : State) (c : Byte),
    exec i { s with crcReg := c } = mapNext (fun t => { t with crcReg := c }) (exec i s) ∧
    exec i s = mapNext (fun t => { t with crcReg := s.crcReg }) (exec i s)) ∧
  (∀ i : Instr, i = .crcClear ∨ i = .crcRead ∨ (∃ d, i = .crcUpdate d) ∨ (∃ p, i = .encode p) ∨
      (∃ f, i = .decode f) →
    ∀ (s : State) (v : Vector (Option Byte) 8) (n : Fin 8),
      exec i { s with rxBuf := v, rxCount := n } =
        mapNext (fun t => { t with rxBuf := v, rxCount := n }) (exec i s) ∧
      exec i s = mapNext (fun t => { t with rxBuf := s.rxBuf, rxCount := s.rxCount }) (exec i s))

/-- R144, R122: in any interleaving, `crc_reg` ends as if only the operations that write it had run, and
the accumulator as if only those that write it had. What the payload rows do is the model's reading (log
entry 5). -/
def Obligations.InterleavingChangesNeitherUnit : Prop :=
  ∀ (is : List Instr) (s : State), RxInv s → ∃ t u v : State,
    execAll is s = .next t ∧ execAll (is.filter writesCrc) s = .next u ∧
    execAll (is.filter writesAccumulator) s = .next v ∧
    t.crcReg = u.crcReg ∧ t.rxBuf = v.rxBuf ∧ t.rxCount = v.rxCount ∧
    u.responses.Sublist t.responses ∧ v.responses.Sublist t.responses

/-- R26, R29: no instruction reads an earlier response: with another history it has the same outcome,
with the history before its own responses; and no step reads or keeps one. -/
def Obligations.NoInstructionReadsTheResponses : Prop :=
  ∀ (s : State) (history : List Response),
    (∀ i : Instr, exec i { s with responses := history } =
      mapNext (fun t => { t with responses := history ++ t.responses })
        (exec i { s with responses := [] })) ∧
    step { s with responses := history } = step s

/-- No instruction touches the waiting inputs or the reset input (model's own fields, log entries 2
and 4). -/
def Obligations.NoInstructionTouchesTheInputs : Prop :=
  ∀ (i : Instr) (s t : State), exec i s = .next t → t.inputs = s.inputs ∧ t.inReset = s.inReset

/-- R48, R151: NOP, CRC_READ, ENCODE, DECODE and the reserved codes change no state, and repeating one
gives the same response. -/
def Obligations.StatelessOperationsRepeat : Prop :=
  ∀ (i : Instr),
    (i ∈ [Instr.nop, .crcRead, .reserved9, .reservedA, .reservedB, .reservedC, .reservedD, .reservedE,
        .reservedF] ∨ (∃ p, i = .encode p) ∨ ∃ f, i = .decode f) →
    ∀ s : State, ∃ r : Response,
      exec i s = .next { s with responses := s.responses ++ [r] } ∧
      exec i { s with responses := s.responses ++ [r] } =
        .next { s with responses := s.responses ++ [r] ++ [r] }

/-! ## Control operations -/

/-- R150: NOP, whatever its `req_data`. -/
def Obligations.NopResult : Prop :=
  ∀ (s : State) (x : Data), decodeRequest (0x0#4 ++ x) = .nop ∧ exec .nop s = .next { s with responses := s.responses ++ [⟨0x0#4, 0#4, 0#64⟩] }

/-- R151: each reserved code, whatever its `req_data`, is answered with `ILLEGAL_OP`, and changes no
state. -/
def Obligations.ReservedCodesResult : Prop :=
  ∀ e ∈ [(0x9#4, Instr.reserved9), (0xA#4, .reservedA), (0xB#4, .reservedB), (0xC#4, .reservedC),
      (0xD#4, .reservedD), (0xE#4, .reservedE), (0xF#4, .reservedF)],
    ∀ (s : State) (x : Data), decodeRequest (e.1 ++ x) = e.2 ∧
      exec e.2 s = .next { s with responses := s.responses ++ [⟨0xF#4, 0#4, 0#64⟩] }

/-! ## Payload rows and the host's data -/

/-- R160, R161 to R173, R121: each host to device row answers as ENCODE of its payload. That such a row
means an ENCODE is the model's reading of R73 (DEDUCED, log entry 5). -/
def Obligations.HostCommandRowsResult : Prop :=
  ∀ (a : Arg) (s : State),
    ∀ e ∈ [(Instr.cmdGetDeviceInfo a, 0x01#8), (.cmdObtainTemperature a, 0x02#8),
        (.cmdSetMeasurementFrequency a, 0x03#8), (.cmdSetDataFormat a, 0x04#8),
        (.cmdStartMeasurement a, 0x05#8), (.cmdStopMeasurement a, 0x06#8),
        (.cmdSaveSettings a, 0x08#8), (.cmdGetSerialNumber a, 0x0A#8),
        (.cmdSetMeasurementMode a, 0x0D#8), (.cmdConfigureAddress a, 0x11#8),
        (.cmdSetBaudRate a, 0x12#8)],
      exec e.1 s = .next { s with responses := s.responses ++
        [⟨0x0#4, 8#4, framedData ⟨e.2, a.a0, a.a1, a.a2, a.a3⟩⟩] }

/-- R160, R167, R171, R145: each device to host row, from an empty accumulator, is received as seven
PENDING responses and then `OK` with the payload. That such a row means a reception is the model's
reading of R160 (DEDUCED, log entry 5), and that it is one step is its choice (log entry 6). -/
def Obligations.DeviceResponseRowsResult : Prop :=
  ∀ (a : Arg) (s : State), Holds s [] →
    ∀ e ∈ [(Instr.rspMeasurementData a, 0x07#8), (.rspHighSpeedData a, 0x0E#8)], ∃ f : Frame,
      dataOfFrame f = framedData ⟨e.2, a.a0, a.a1, a.a2, a.a3⟩ ∧
      exec e.1 s = .next { s with responses := s.responses ++ pendingResponses f ++
        [⟨0x0#4, 5#4, 0#24 ++ e.2 ++ a.a0 ++ a.a1 ++ a.a2 ++ a.a3⟩] }

/-- A device to host row received on top of a partial frame is eight RX_BYTEs in order: it completes,
with eight responses, and leaves as many bytes waiting as before. That such a row is a reception is the
model's reading (DEDUCED, log entry 5), and that it is one step its choice (DESIGN CHOICE, log entry 6);
R215 says only that the block answers mixed frames by its rules. -/
def Obligations.DeviceResponseRowsMixWithAPartialFrame : Prop :=
  ∀ (a : Arg) (s : State), RxInv s →
    ∀ e ∈ [(Instr.rspMeasurementData a, 0x07#8), (.rspHighSpeedData a, 0x0E#8)], ∃ t : State,
      exec e.1 s = .next t ∧
      execAll ((wrap [e.2, a.a0, a.a1, a.a2, a.a3]).map Instr.rxByte) s = .next t ∧
      t.rxCount = s.rxCount ∧ t.responses.length = s.responses.length + 8 ∧
      t.crcReg = s.crcReg

/-- R176: the host reads the error code and the big-endian distance of a received measurement. That the
row `rspMeasurementData` is the reception of its frame, in one step, is the model's reading (DEDUCED, log
entry 5; DESIGN CHOICE, log entry 6). -/
def Obligations.ReceivedMeasurementIsRead : Prop :=
  ∀ (err hi mid lo : Byte) (s : State), Holds s [] → ∃ (t : State) (r : Response) (p : Payload),
    exec (.rspMeasurementData ⟨err, hi, mid, lo⟩) s = .next t ∧ t.responses.getLast? = some r ∧
    responsePayload r = some p ∧
    readMeasurement p = .ok ⟨err, hi.toNat * 65536 + mid.toNat * 256 + lo.toNat⟩ ∧
    hi.toNat * 65536 + mid.toNat * 256 + lo.toNat ≤ 16777215

/-- R163: the frequency builder refuses exactly 0 and what is above `FREQ_MAX`, which is 500 or 2000
(log entry 10), and otherwise sends the frequency as four big-endian bytes. -/
def Obligations.SetFrequencyBuilder : Prop :=
  (freqMax = 500 ∨ freqMax = 2000) ∧
  ∀ hz : Nat,
    (buildCommand (.setFrequency hz) = .error .outOfRange ↔ hz = 0 ∨ freqMax < hz) ∧
    (1 ≤ hz ∧ hz ≤ freqMax → ∃ a : Arg,
      buildCommand (.setFrequency hz) = .ok (.cmdSetMeasurementFrequency a) ∧ be a.toList = hz)

/-- R177: the builders with fixed arguments, and the frames they give (the one of save-settings is the
spec's own inference, R168; log entry 16). That their row means an ENCODE is the model's reading (DEDUCED,
log entry 5). -/
def Obligations.BuildersGiveTheLiteralFrames : Prop :=
  ∀ e ∈ [(Command.getDeviceInfo, 0x550100000000D3AA#64), (.setFrequency 10, 0x55030000000A9FAA#64),
      (.setFormatByte, 0x5504000000012EAA#64), (.setFormatPixhawk, 0x5504000000027DAA#64),
      (.startMeasurement, 0x550500000000CCAA#64), (.stopMeasurement, 0x55060000000088AA#64),
      (.saveSettings, 0x5508000000003EAA#64), (.setModeContinuous, 0x550D00000000F2AA#64),
      (.setModeSingle, 0x550D00000001C3AA#64),
      (.setModeContinuousStopped, 0x550D0000000290AA#64)],
    ∃ i : Instr, buildCommand e.1 = .ok i ∧
      ∀ s : State, exec i s =
        .next { s with responses := s.responses ++ [⟨0x0#4, 8#4, e.2⟩] }
end

