-- ==== Sys2Proof/Laws/State.lean ====
section
/-! SUPPORT. One lemma per field per update of the state, true by rfl. -/

namespace Sys2Proof.Machine

variable (s : State) (st : Status) (bs : List Byte) (b : Byte)

@[simp] theorem respond_crcReg : (s.respond st bs).crcReg = s.crcReg := rfl
@[simp] theorem respond_rxBuf : (s.respond st bs).rxBuf = s.rxBuf := rfl
@[simp] theorem respond_rxCount : (s.respond st bs).rxCount = s.rxCount := rfl
@[simp] theorem respond_inReset : (s.respond st bs).inReset = s.inReset := rfl
@[simp] theorem respond_inputs : (s.respond st bs).inputs = s.inputs := rfl
@[simp] theorem respond_responses :
    (s.respond st bs).responses = s.responses ++ [mkResponse st bs] := rfl

@[simp] theorem raise_eq_respond : s.raise st bs = s.respond st bs := rfl

@[simp] theorem rxStore_crcReg : (s.rxStore b).crcReg = s.crcReg := rfl
@[simp] theorem rxStore_rxBuf : (s.rxStore b).rxBuf = s.rxBuf.set s.rxCount.val (some b) := rfl
@[simp] theorem rxStore_rxCount : (s.rxStore b).rxCount = s.rxCount + 1 := rfl
@[simp] theorem rxStore_inReset : (s.rxStore b).inReset = s.inReset := rfl
@[simp] theorem rxStore_inputs : (s.rxStore b).inputs = s.inputs := rfl
@[simp] theorem rxStore_responses : (s.rxStore b).responses = s.responses := rfl

@[simp] theorem rxClear_crcReg : s.rxClear.crcReg = s.crcReg := rfl
@[simp] theorem rxClear_rxBuf : s.rxClear.rxBuf = Vector.replicate 8 none := rfl
@[simp] theorem rxClear_rxCount : s.rxClear.rxCount = 0 := rfl
@[simp] theorem rxClear_inReset : s.rxClear.inReset = s.inReset := rfl
@[simp] theorem rxClear_inputs : s.rxClear.inputs = s.inputs := rfl
@[simp] theorem rxClear_responses : s.rxClear.responses = s.responses := rfl

@[simp] theorem assertReset_crcReg : s.assertReset.crcReg = crcInit := rfl
@[simp] theorem assertReset_rxBuf : s.assertReset.rxBuf = Vector.replicate 8 none := rfl
@[simp] theorem assertReset_rxCount : s.assertReset.rxCount = 0 := rfl
@[simp] theorem assertReset_inReset : s.assertReset.inReset = true := rfl
@[simp] theorem assertReset_inputs : s.assertReset.inputs = s.inputs := rfl
@[simp] theorem assertReset_responses : s.assertReset.responses = s.responses := rfl

@[simp] theorem releaseReset_crcReg : s.releaseReset.crcReg = s.crcReg := rfl
@[simp] theorem releaseReset_rxBuf : s.releaseReset.rxBuf = s.rxBuf := rfl
@[simp] theorem releaseReset_rxCount : s.releaseReset.rxCount = s.rxCount := rfl
@[simp] theorem releaseReset_inReset : s.releaseReset.inReset = false := rfl
@[simp] theorem releaseReset_inputs : s.releaseReset.inputs = s.inputs := rfl
@[simp] theorem releaseReset_responses : s.releaseReset.responses = s.responses := rfl

end Sys2Proof.Machine
end

