-- ==== Sys2Proof/Laws/Ops.lean ====
section
/-! SUPPORT. For each shared operation, what it can do. -/

namespace Sys2Proof.Machine

/-! ## Sequencing -/

@[simp] theorem andThen_next (s : State) (k : State → Result) : andThen (.next s) k = k s := rfl

@[simp] theorem andThen_refused (e : Refusal) (k : State → Result) :
    andThen (.refused e) k = .refused e := rfl

/-- A sequence answers a next state through a next state of its first part. -/
theorem andThen_eq_next {r : Result} {k : State → Result} {t : State} (h : andThen r k = .next t) :
    ∃ s, r = .next s ∧ k s = .next t := by
  cases r with
  | next s => exact ⟨s, rfl, h⟩
  | fault e => exact nomatch e
  | refused e => cases h

theorem andThen_assoc (r : Result) (k l : State → Result) :
    andThen (andThen r k) l = andThen r fun s => andThen (k s) l := by
  cases r <;> rfl

/-- Receiving two runs of bytes is receiving one after the other. -/
theorem receiveBytes_append (as bs : List Byte) (s : State) :
    receiveBytes (as ++ bs) s = andThen (receiveBytes as s) (receiveBytes bs) := by
  induction as generalizing s with
  | nil => rfl
  | cons a as ih => simp only [List.cons_append, receiveBytes, andThen_assoc]; congr; funext; exact ih _

/-- Running two lists of instructions is running one after the other. -/
theorem execAll_append (is js : List Instr) (s : State) :
    execAll (is ++ js) s = andThen (execAll is s) (execAll js) := by
  induction is generalizing s with
  | nil => rfl
  | cons i is ih => simp only [List.cons_append, execAll, andThen_assoc]; congr; funext; exact ih _

/-- Received bytes are RX_BYTEs in order. -/
theorem execAll_map_rxByte (bs : List Byte) (s : State) :
    execAll (bs.map .rxByte) s = receiveBytes bs s := by
  induction bs generalizing s with
  | nil => rfl
  | cons b bs ih => simp only [List.map_cons, execAll, receiveBytes]; congr; funext; exact ih _

/-! ## The accumulator -/

/-- Every slot of a list holds a value exactly when the list is that of its values. -/
theorem allPresent_eq_some {l : List (Option Byte)} {bs : List Byte} :
    allPresent l = some bs ↔ l = bs.map some := by
  induction l generalizing bs with
  | nil => cases bs <;> simp [allPresent]
  | cons o l ih =>
    cases o with
    | none => cases bs <;> simp [allPresent]
    | some b =>
      cases bs with
      | nil => cases h : allPresent l <;> simp [allPresent, h]
      | cons c cs =>
        cases h : allPresent l with
        | none => simp [allPresent, h, ← ih]
        | some ds =>
          simp only [allPresent, h, Option.some.injEq, List.cons.injEq, List.map_cons, ← ih]

/-- The number of valid bytes is `rx_count`. -/
theorem rxValid_length {s : State} {bs : List Byte} (h : s.rxValid = some bs) :
    bs.length = s.rxCount.val := by
  have h := congrArg List.length (allPresent_eq_some.mp h)
  have := s.rxCount.isLt
  simp at h
  omega

/-- An accumulator that holds `bs` reads as `bs`. -/
theorem Holds.rxValid {s : State} {bs : List Byte} (h : Holds s bs) : s.rxValid = some bs := by
  refine allPresent_eq_some.mpr (List.ext_getElem? fun i => ?_)
  have hl := s.rxCount.isLt
  by_cases hi : i < bs.length
  · have h8 : i < 8 := by omega
    have := h.2 ⟨i, h8⟩
    simp only [Fin.getElem_fin] at this
    simp [h.1, hi, h8, this]
  · simp [h.1, hi]

/-- Holding bytes is a form of the accumulator's invariant. -/
theorem Holds.rxInv {s : State} {bs : List Byte} (h : Holds s bs) : RxInv s := by
  intro i
  rw [h.2 i]
  by_cases hi : i.val < bs.length <;> simp [hi, Fin.lt_def, h.1]

/-- A cleared accumulator holds no byte. -/
theorem holds_rxClear (s : State) : Holds s.rxClear [] := by simp [Holds]

/-- Storing a byte below the seventh place appends it. -/
theorem Holds.rxStore {s : State} {bs : List Byte} (h : Holds s bs) (hl : bs.length < 7) (b : Byte) :
    Holds (s.rxStore b) (bs ++ [b]) := by
  have hc : s.rxCount.val < 7 := by rw [h.1]; exact hl
  constructor
  · have : (s.rxCount + 1).val = s.rxCount.val + 1 := by
      rw [Fin.val_add_one_of_lt (Fin.lt_def.mpr hc)]
    simp [this, h.1]
  · intro i
    have hi := h.2 i
    simp only [Fin.getElem_fin] at hi
    simp only [rxStore_rxBuf, Fin.getElem_fin, Vector.getElem_set, h.1, List.getElem?_append]
    by_cases e : bs.length = i.val
    · simp [e]
    · by_cases l : i.val < bs.length
      · simp [e, l, hi]
      · have : i.val - bs.length ≠ 0 := by omega
        simp [e, l, hi, this]

/-- RX_BYTE before the eighth byte: the byte is stored, and the answer is PENDING. -/
theorem Holds.receiveByte_pending {s : State} {bs : List Byte} (h : Holds s bs) (hl : bs.length < 7)
    (b : Byte) :
    receiveByte b s = .next ((s.rxStore b).respond .pending (bs ++ [b])) := by
  have hc : s.rxCount.val < 7 := by rw [h.1]; exact hl
  simp [receiveByte, hc, withRxValid, (h.rxStore hl b).rxValid]

/-- RX_BYTE on the eighth byte: the accumulator is cleared, and the frame is judged. -/
theorem Holds.receiveByte_verdict {s : State} {bs : List Byte} (h : Holds s bs) (hl : bs.length = 7)
    (b : Byte) :
    receiveByte b s = .next (s.rxClear.respondVerdict (bs ++ [b])) := by
  have hc : ¬ s.rxCount.val < 7 := by rw [h.1]; omega
  simp [receiveByte, hc, withRxValid, h.rxValid]

/-- What RX_BYTE can do when it answers a next state. -/
theorem receiveByte_next {b : Byte} {s t : State} (h : receiveByte b s = .next t) :
    (∃ bs, s.rxCount.val < 7 ∧ (s.rxStore b).rxValid = some bs ∧ t = (s.rxStore b).respond .pending bs) ∨
    (∃ bs, s.rxCount.val = 7 ∧ s.rxValid = some bs ∧ t = s.rxClear.respondVerdict (bs ++ [b])) := by
  have hl := s.rxCount.isLt
  unfold receiveByte withRxValid at h
  split at h
  · rename_i hc
    split at h
    · rename_i bs hv
      cases h
      exact .inl ⟨bs, hc, hv, rfl⟩
    · cases h
  · split at h
    · rename_i bs hv
      cases h
      exact .inr ⟨bs, by omega, hv, rfl⟩
    · cases h

/-! ## Responses -/

/-- The verdict on a frame: the state with one response more, one of three. -/
theorem respondVerdict_cases (s : State) (f : List Byte) :
    (∃ p, unwrap f = .ok p ∧ s.respondVerdict f = s.respond .ok p) ∨
    (unwrap f = .framingError ∧ s.respondVerdict f = s.respond .framingError f) ∨
    (unwrap f = .checksumError ∧ s.respondVerdict f = s.respond .checksumError f) := by
  unfold State.respondVerdict
  cases h : unwrap f with
  | ok p => exact .inl ⟨p, rfl, rfl⟩
  | framingError => exact .inr (.inl ⟨rfl, rfl⟩)
  | checksumError => exact .inr (.inr ⟨rfl, rfl⟩)

/-- Packed bytes fit their lanes. -/
theorem pack_lt (bs : List Byte) (h : bs.length ≤ 8) : (pack bs).toNat < 2 ^ (8 * bs.length) := by
  induction bs with
  | nil => simp [pack]
  | cons b bs ih =>
    have hb := b.isLt
    have ih := ih (by simp at h; omega)
    simp only [List.length_cons] at h
    have h1 : 2 ^ (8 * (bs.length + 1)) = 256 * 2 ^ (8 * bs.length) := by
      rw [Nat.mul_add, Nat.pow_add]; ring
    have h2 : b.toNat * 2 ^ (8 * bs.length) ≤ 255 * 2 ^ (8 * bs.length) :=
      Nat.mul_le_mul_right _ (by omega)
    have h3 : 256 * 2 ^ (8 * bs.length) ≤ 2 ^ 64 := by
      rw [← h1]; exact Nat.pow_le_pow_right (by omega) (by omega)
    have h4 : b.toNat % 2 ^ 64 = b.toNat := Nat.mod_eq_of_lt (by omega)
    simp only [pack, BitVec.toNat_add, BitVec.toNat_shiftLeft, BitVec.toNat_setWidth, h4,
      Nat.shiftLeft_eq, List.length_cons, h1]
    omega

/-- The packed bytes are the big-endian integer of the bytes. -/
theorem pack_toNat (bs : List Byte) (h : bs.length ≤ 8) : (pack bs).toNat = be bs := by
  induction bs with
  | nil => simp [pack, be]
  | cons b bs ih =>
    have hl := pack_lt (b :: bs) h
    have hl' := pack_lt bs (by simp at h; omega)
    simp only [List.length_cons] at h
    have ih := ih (by omega)
    have hb := b.isLt
    have h1 : (2 : Nat) ^ (8 * bs.length) = 256 ^ bs.length := by
      rw [Nat.pow_mul]
    have h2 : b.toNat * 256 ^ bs.length + 256 ^ bs.length ≤ 256 * 256 ^ bs.length := by
      have := Nat.mul_le_mul_right (256 ^ bs.length) (show b.toNat + 1 ≤ 256 by omega)
      rwa [Nat.add_mul, Nat.one_mul] at this
    have h3 : 256 * 256 ^ bs.length ≤ 2 ^ 64 := by
      have : (256 : Nat) * 256 ^ bs.length = 2 ^ (8 * (bs.length + 1)) := by
        rw [Nat.pow_mul, Nat.pow_succ]; ring
      rw [this]; exact Nat.pow_le_pow_right (by omega) (by omega)
    have h4 : b.toNat % 2 ^ 64 = b.toNat := Nat.mod_eq_of_lt (by omega)
    rw [h1] at hl'
    simp only [pack, BitVec.toNat_add, BitVec.toNat_shiftLeft, BitVec.toNat_setWidth, h4,
      Nat.shiftLeft_eq, be, h1]
    omega

/-! ## One step -/

/-- A step with no input waiting: the state, with no response. -/
theorem step_idle {s : State} (h : s.inputs = []) : step s = .next { s with responses := [] } := by
  simp [step, takeNext, h]

/-- A step with an input waiting takes that input, with none of the earlier responses. -/
theorem step_input {s : State} {x : Input} {rest : List Input} (h : s.inputs = x :: rest) :
    step s = takeInput x { s with inputs := rest, responses := [] } := by
  simp [step, takeNext, h]

/-- One more step of a run puts its own responses before those of the rest. -/
theorem observed_succ {s t : State} (h : step s = .next t) (n : Nat) :
    observed (n + 1) s = t.responses ++ observed n t := by
  simp [observed, h]

/-! ## The codec -/

@[simp] theorem crcFrom_nil (c : Byte) : crcFrom c [] = c := rfl

@[simp] theorem crcFrom_cons (c b : Byte) (bs : List Byte) :
    crcFrom c (b :: bs) = crcFrom (crcStep c b) bs := rfl

theorem crcFrom_append (c : Byte) (as bs : List Byte) :
    crcFrom c (as ++ bs) = crcFrom (crcFrom c as) bs := List.foldl_append

@[simp] theorem wrap_length (p : List Byte) : (wrap p).length = p.length + 3 := by
  simp [wrap]

/-- A frame is accepted only with at least three bytes, and its payload has three fewer. -/
theorem unwrap_ok_length {f p : List Byte} (h : unwrap f = .ok p) : f.length = p.length + 3 := by
  unfold unwrap at h
  simp only at h
  split at h
  · cases h
  split at h
  · cases h
  split at h
  · cases h
  · cases h
    simp [slice]
    omega

end Sys2Proof.Machine
end

