-- ==== Sys2Proof/Laws/Decode.lean ====
section
/-! SUPPORT. Lemmas about lanes, appended bits and request words. -/

namespace Sys2Proof

/-- The integer of appended bits. -/
theorem append_toNat {m n : Nat} (x : BitVec m) (y : BitVec n) :
    (x ++ y).toNat = x.toNat * 2 ^ n + y.toNat := by
  rw [BitVec.toNat_append, ← Nat.shiftLeft_add_eq_or_of_lt y.isLt, Nat.shiftLeft_eq]

/-- Selected bits as an integer. -/
theorem extract_toNat {n : Nat} (x : BitVec n) (start len : Nat) :
    (x.extractLsb' start len).toNat = x.toNat / 2 ^ start % 2 ^ len := by
  rw [BitVec.extractLsb'_toNat, Nat.shiftRight_eq_div_pow]

/-- R60: the operation code of a request word put together. -/
theorem requestOp_append (op : BitVec 4) (data : Data) : requestOp (op ++ data) = op := by
  have := op.isLt
  have := data.isLt
  apply BitVec.eq_of_toNat_eq
  rw [requestOp, extract_toNat, append_toNat]
  omega

/-- R60: the operand bits of a request word put together. -/
theorem requestData_append (op : BitVec 4) (data : Data) : requestData (op ++ data) = data := by
  have := op.isLt
  have := data.isLt
  apply BitVec.eq_of_toNat_eq
  rw [requestData, extract_toNat, append_toNat]
  omega

/-- R60: a request word is its operation code and its operand bits. -/
theorem requestOp_append_requestData (w : BitVec 68) : requestOp w ++ requestData w = w := by
  have := w.isLt
  apply BitVec.eq_of_toNat_eq
  rw [append_toNat, requestOp, requestData, extract_toNat, extract_toNat]
  omega

/-- The sixteen values of an operation code (R65). -/
theorem requestOp_cases (o : BitVec 4) :
    o = 0x0#4 ∨ o = 0x1#4 ∨ o = 0x2#4 ∨ o = 0x3#4 ∨ o = 0x4#4 ∨ o = 0x5#4 ∨ o = 0x6#4 ∨ o = 0x7#4 ∨
      o = 0x8#4 ∨ o = 0x9#4 ∨ o = 0xA#4 ∨ o = 0xB#4 ∨ o = 0xC#4 ∨ o = 0xD#4 ∨ o = 0xE#4 ∨ o = 0xF#4 := by
  revert o
  decide

namespace Machine

/-- R63: a lane as an integer. -/
theorem lane_toNat (n i : Nat) (data : Data) :
    (lane n i data).toNat = data.toNat / 2 ^ (8 * (n - 1 - i)) % 256 :=
  extract_toNat data (8 * (n - 1 - i)) 8

/-- R62, R64: the packed payload is the operand bits of ENCODE. -/
theorem pack_payload (p : Payload) : pack p.toList = dataOfPayload p := by
  apply BitVec.eq_of_toNat_eq
  rw [pack_toNat _ (by simp [Payload.toList]), dataOfPayload, append_toNat, append_toNat,
    append_toNat, append_toNat, append_toNat]
  simp only [Payload.toList, be, List.length_cons, List.length_nil, BitVec.toNat_ofNat]
  omega

/-- R62, R64: the packed frame is the operand bits of DECODE. -/
theorem pack_frame (f : Frame) : pack f.toList = dataOfFrame f := by
  apply BitVec.eq_of_toNat_eq
  rw [pack_toNat _ (by simp [Frame.toList]), dataOfFrame, append_toNat, append_toNat, append_toNat,
    append_toNat, append_toNat, append_toNat, append_toNat]
  simp only [Frame.toList, be, List.length_cons, List.length_nil]
  omega

/-! ## Inputs -/

/-- What a step on an issued word can do when it answers a next state. -/
theorem runWord_next {w : ProgramWord} {s t : State} (h : runWord w s = .next t) :
    ∃ i, decodeWord w = .ok i ∧ exec i s = .next t := by
  unfold runWord at h
  split at h
  · rename_i i hi
    exact ⟨i, hi, h⟩
  · cases h

/-- What an input can do when it answers a next state. -/
theorem takeInput_next {x : Input} {s t : State} (h : takeInput x s = .next t) :
    (∃ w, x = .issue w ∧ s.inReset = true ∧ t = s) ∨
    (∃ w i, x = .issue w ∧ s.inReset = false ∧ decodeWord w = .ok i ∧ exec i s = .next t) ∨
    ((x = .assertReset ∨ ∃ w, x = .issueCutByReset w) ∧ t = s.assertReset) ∨
    (x = .releaseReset ∧ t = s.releaseReset) := by
  cases x with
  | issue w =>
    simp only [takeInput] at h
    split at h
    · rename_i hr
      cases h
      exact .inl ⟨w, rfl, hr, rfl⟩
    · rename_i hr
      obtain ⟨i, hi, he⟩ := runWord_next h
      exact .inr (.inl ⟨w, i, rfl, by simpa using hr, hi, he⟩)
  | issueCutByReset w =>
    cases h
    exact .inr (.inr (.inl ⟨.inr ⟨w, rfl⟩, rfl⟩))
  | assertReset =>
    cases h
    exact .inr (.inr (.inl ⟨.inl rfl, rfl⟩))
  | releaseReset =>
    cases h
    exact .inr (.inr (.inr ⟨rfl, rfl⟩))

/-- What a step can do when it answers a next state. -/
theorem takeNext_next {s t : State} (h : takeNext s = .next t) :
    (s.inputs = [] ∧ t = { s with responses := [] }) ∨
    ∃ x rest, s.inputs = x :: rest ∧ takeInput x { s with inputs := rest, responses := [] } = .next t := by
  unfold takeNext at h
  split at h
  · rename_i hi
    cases h
    exact .inl ⟨hi, rfl⟩
  · rename_i x rest hi
    exact .inr ⟨x, rest, hi, h⟩

/-- What reading the accumulator can do when the reader answers a next state. -/
theorem withRxValid_next {s t : State} {k : List Byte → Result} (h : withRxValid s k = .next t) :
    ∃ bs, s.rxValid = some bs ∧ bs.length = s.rxCount.val ∧ k bs = .next t := by
  unfold withRxValid at h
  split at h
  · rename_i bs hb
    exact ⟨bs, hb, rxValid_length hb, h⟩
  · cases h

end Machine

end Sys2Proof
end

