-- ==== Sys2Proof/Laws/PerInstr.lean ====
section
/-! SUPPORT. The family EncodeFitsRow: the word of an instruction has the fixed bits of its row of
the opcode table (spec/opcode_table.json; R65, R71). -/

namespace Sys2Proof.Laws.EncodeFitsRow

/-- The word of the instruction fits the row it stands for, and that row is in the table. -/
def Statement (i : Instr) : Prop :=
  (encodeInstr i).fits (instrRow i) = true ∧ instrRow i ∈ opcodeTable

/-- A request word fits the request row of its operation code. -/
theorem request_fits (op : BitVec 4) (data : Data) :
    (requestWord op data).fits (requestRow op.toNat) = true := by
  have h : (op ++ data).toNat &&& (0xF <<< 64) = op.toNat <<< 64 := by
    apply Nat.eq_of_testBit_eq
    intro i
    rw [BitVec.toNat_append, Nat.testBit_and, Nat.testBit_or, Nat.testBit_shiftLeft,
      Nat.testBit_shiftLeft]
    by_cases hi : 64 ≤ i
    · have hd : data.toNat.testBit i = false :=
        Nat.testBit_lt_two_pow (Nat.lt_of_lt_of_le data.isLt (Nat.pow_le_pow_right (by omega) hi))
      have ho : (Nat.testBit 15 (i - 64)) = decide (i - 64 < 4) :=
        Nat.testBit_two_pow_sub_one 4 (i - 64)
      by_cases hj : i - 64 < 4
      · simp [hi, hd, ho, hj]
      · have : op.toNat.testBit (i - 64) = false :=
          Nat.testBit_lt_two_pow (Nat.lt_of_lt_of_le op.isLt (Nat.pow_le_pow_right (by omega) (by omega)))
        simp [hi, hd, ho, hj, this]
    · simp [hi]
  simp only [requestWord, requestRow, ProgramWord.fits, ProgramWord.width, ProgramWord.toNat, h,
    beq_self_eq_true, Bool.and_self]

/-- A payload word fits the payload row of its command id. -/
theorem payload_fits (id : Byte) (a : Arg) :
    (payloadWord id a).fits (payloadRow id.toNat) = true := by
  have h : (id ++ a.a0 ++ a.a1 ++ a.a2 ++ a.a3).toNat &&& (0xFF <<< 32) = id.toNat <<< 32 := by
    have h0 := a.a0.isLt
    have h1 := a.a1.isLt
    have h2 := a.a2.isLt
    have h3 := a.a3.isLt
    apply Nat.eq_of_testBit_eq
    intro i
    have e : (id ++ a.a0 ++ a.a1 ++ a.a2 ++ a.a3).toNat =
        id.toNat <<< 32 ||| (a.a0 ++ a.a1 ++ a.a2 ++ a.a3).toNat := by
      simp only [BitVec.toNat_append, Nat.shiftLeft_or_distrib, ← Nat.shiftLeft_add, Nat.or_assoc]
    have hr := (a.a0 ++ a.a1 ++ a.a2 ++ a.a3).isLt
    rw [e, Nat.testBit_and, Nat.testBit_or, Nat.testBit_shiftLeft, Nat.testBit_shiftLeft]
    by_cases hi : 32 ≤ i
    · have hd : (a.a0 ++ a.a1 ++ a.a2 ++ a.a3).toNat.testBit i = false :=
        Nat.testBit_lt_two_pow (Nat.lt_of_lt_of_le hr (Nat.pow_le_pow_right (by omega) hi))
      have ho : (Nat.testBit 255 (i - 32)) = decide (i - 32 < 8) :=
        Nat.testBit_two_pow_sub_one 8 (i - 32)
      by_cases hj : i - 32 < 8
      · simp [hi, hd, ho, hj]
      · have : id.toNat.testBit (i - 32) = false :=
          Nat.testBit_lt_two_pow (Nat.lt_of_lt_of_le id.isLt (Nat.pow_le_pow_right (by omega) (by omega)))
        simp [hi, hd, ho, hj, this]
    · simp [hi]
  simp only [payloadWord, payloadRow, ProgramWord.fits, ProgramWord.width, ProgramWord.toNat, h,
    beq_self_eq_true, Bool.and_self]

theorem nop : Statement .nop :=
  ⟨request_fits 0x0#4 _, by change requestRow 0x0 ∈ _; decide⟩

theorem crcClear : Statement .crcClear :=
  ⟨request_fits 0x1#4 _, by change requestRow 0x1 ∈ _; decide⟩

theorem crcUpdate (d : Byte) : Statement (.crcUpdate d) :=
  ⟨request_fits 0x2#4 _, by change requestRow 0x2 ∈ _; decide⟩

theorem crcRead : Statement .crcRead :=
  ⟨request_fits 0x3#4 _, by change requestRow 0x3 ∈ _; decide⟩

theorem encode (p : Payload) : Statement (.encode p) :=
  ⟨request_fits 0x4#4 _, by change requestRow 0x4 ∈ _; decide⟩

theorem decode (f : Frame) : Statement (.decode f) :=
  ⟨request_fits 0x5#4 _, by change requestRow 0x5 ∈ _; decide⟩

theorem rxByte (b : Byte) : Statement (.rxByte b) :=
  ⟨request_fits 0x6#4 _, by change requestRow 0x6 ∈ _; decide⟩

theorem rxTimeout : Statement .rxTimeout :=
  ⟨request_fits 0x7#4 _, by change requestRow 0x7 ∈ _; decide⟩

theorem rxFlush : Statement .rxFlush :=
  ⟨request_fits 0x8#4 _, by change requestRow 0x8 ∈ _; decide⟩

theorem reserved9 : Statement .reserved9 :=
  ⟨request_fits 0x9#4 _, by change requestRow 0x9 ∈ _; decide⟩

theorem reservedA : Statement .reservedA :=
  ⟨request_fits 0xA#4 _, by change requestRow 0xA ∈ _; decide⟩

theorem reservedB : Statement .reservedB :=
  ⟨request_fits 0xB#4 _, by change requestRow 0xB ∈ _; decide⟩

theorem reservedC : Statement .reservedC :=
  ⟨request_fits 0xC#4 _, by change requestRow 0xC ∈ _; decide⟩

theorem reservedD : Statement .reservedD :=
  ⟨request_fits 0xD#4 _, by change requestRow 0xD ∈ _; decide⟩

theorem reservedE : Statement .reservedE :=
  ⟨request_fits 0xE#4 _, by change requestRow 0xE ∈ _; decide⟩

theorem reservedF : Statement .reservedF :=
  ⟨request_fits 0xF#4 _, by change requestRow 0xF ∈ _; decide⟩

theorem cmdGetDeviceInfo (a : Arg) : Statement (.cmdGetDeviceInfo a) := ⟨payload_fits 0x01#8 a, by change payloadRow 0x01 ∈ _; decide⟩

theorem cmdObtainTemperature (a : Arg) : Statement (.cmdObtainTemperature a) := ⟨payload_fits 0x02#8 a, by change payloadRow 0x02 ∈ _; decide⟩

theorem cmdSetMeasurementFrequency (a : Arg) : Statement (.cmdSetMeasurementFrequency a) := ⟨payload_fits 0x03#8 a, by change payloadRow 0x03 ∈ _; decide⟩

theorem cmdSetDataFormat (a : Arg) : Statement (.cmdSetDataFormat a) := ⟨payload_fits 0x04#8 a, by change payloadRow 0x04 ∈ _; decide⟩

theorem cmdStartMeasurement (a : Arg) : Statement (.cmdStartMeasurement a) := ⟨payload_fits 0x05#8 a, by change payloadRow 0x05 ∈ _; decide⟩

theorem cmdStopMeasurement (a : Arg) : Statement (.cmdStopMeasurement a) := ⟨payload_fits 0x06#8 a, by change payloadRow 0x06 ∈ _; decide⟩

theorem rspMeasurementData (a : Arg) : Statement (.rspMeasurementData a) := ⟨payload_fits 0x07#8 a, by change payloadRow 0x07 ∈ _; decide⟩

theorem cmdSaveSettings (a : Arg) : Statement (.cmdSaveSettings a) := ⟨payload_fits 0x08#8 a, by change payloadRow 0x08 ∈ _; decide⟩

theorem cmdGetSerialNumber (a : Arg) : Statement (.cmdGetSerialNumber a) := ⟨payload_fits 0x0A#8 a, by change payloadRow 0x0A ∈ _; decide⟩

theorem cmdSetMeasurementMode (a : Arg) : Statement (.cmdSetMeasurementMode a) := ⟨payload_fits 0x0D#8 a, by change payloadRow 0x0D ∈ _; decide⟩

theorem rspHighSpeedData (a : Arg) : Statement (.rspHighSpeedData a) := ⟨payload_fits 0x0E#8 a, by change payloadRow 0x0E ∈ _; decide⟩

theorem cmdConfigureAddress (a : Arg) : Statement (.cmdConfigureAddress a) := ⟨payload_fits 0x11#8 a, by change payloadRow 0x11 ∈ _; decide⟩

theorem cmdSetBaudRate (a : Arg) : Statement (.cmdSetBaudRate a) := ⟨payload_fits 0x12#8 a, by change payloadRow 0x12 ∈ _; decide⟩

end Sys2Proof.Laws.EncodeFitsRow
end

