-- ==== Sys2Proof/Tests/Slice0.lean ====
section
/-! SUPPORT. Tests with expected results from the spec (the words of spec/30_encoding.md R65 and R160,
the vectors of spec/95_test_vectors.md), the smoke test of WellFormed, and a witness for the hypotheses
of every statement that has some. -/

namespace Sys2Proof.Tests

open Sys2Proof.Machine

/-- The reset state with bytes in the accumulator. -/
def holding (bs : List Byte) : State :=
  { State.reset with
    rxBuf := Vector.ofFn fun i => bs[i.val]?, rxCount := ⟨bs.length % 8, Nat.mod_lt _ (by decide)⟩ }

/-- A state with one input waiting. -/
def waiting (s : State) (x : Input) : State := { s with inputs := [x] }

/-- The last response of an outcome. -/
def answer : Result → Option Response
  | .next s => s.responses.getLast?
  | _ => none

/-- The next state of an outcome, or the given one. -/
def after (s : State) : Result → State
  | .next t => t
  | _ => s

/-! ## WellFormed refuses ill-formed terms (R64, R71) -/

theorem test_wrong_operand_counts_are_ill_formed :
    ([⟨.nop, [0]⟩, ⟨.crcClear, [0]⟩, ⟨.crcUpdate, []⟩, ⟨.crcRead, [0]⟩, ⟨.encode, [1, 2, 3, 4]⟩,
      ⟨.decode, [1, 2, 3, 4, 5, 6, 7]⟩, ⟨.rxByte, [1, 2]⟩, ⟨.rxTimeout, [0]⟩, ⟨.rxFlush, [0]⟩].map
      AsmLine.wellFormed) = List.replicate 9 false := by decide

theorem test_right_operand_count_is_well_formed :
    AsmLine.wellFormed ⟨.encode, [1, 2, 3, 4, 5]⟩ = true := by decide

theorem test_unnamed_command_id_is_ill_formed :
    (ProgramWord.payload 0x0900000000#40).wellFormed = false ∧
      decodeWord (.payload 0x0900000000#40) = .error (.unnamedCommandId 0x09#8) := by decide

/-! ## Decoding: one word for each row of the opcode table (R64, R65; opcode_table.json) -/

theorem test_decode_nop : decodeTableWord 72 0x0FFFFFFFFFFFFFFFF = some .nop := by decide
theorem test_decode_crcClear : decodeTableWord 72 0x10000000000000001 = some .crcClear := by decide
theorem test_decode_crcUpdate :
    decodeTableWord 72 0x2FF000000000000C3 = some (.crcUpdate 0xC3#8) := by decide
theorem test_decode_crcRead : decodeTableWord 72 0x30000000000000000 = some .crcRead := by decide
theorem test_decode_encode :
    decodeTableWord 72 0x4FFFFFF123456789A =
      some (.encode ⟨0x12#8, 0x34#8, 0x56#8, 0x78#8, 0x9A#8⟩) := by decide
theorem test_decode_decode :
    decodeTableWord 72 0x55507000009C41BAA =
      some (.decode ⟨0x55#8, 0x07#8, 0x00#8, 0x00#8, 0x09#8, 0xC4#8, 0x1B#8, 0xAA#8⟩) := by decide
theorem test_decode_rxByte :
    decodeTableWord 72 0x60000000000000155 = some (.rxByte 0x55#8) := by decide
theorem test_decode_rxTimeout : decodeTableWord 72 0x70000000000000000 = some .rxTimeout := by decide
theorem test_decode_rxFlush : decodeTableWord 72 0x80000000000000000 = some .rxFlush := by decide
theorem test_decode_reserved9 : decodeTableWord 72 0x90000000000000000 = some .reserved9 := by decide
theorem test_decode_reservedA : decodeTableWord 72 0xA0000000000000000 = some .reservedA := by decide
theorem test_decode_reservedB : decodeTableWord 72 0xB0000000000000000 = some .reservedB := by decide
theorem test_decode_reservedC : decodeTableWord 72 0xC0000000000000000 = some .reservedC := by decide
theorem test_decode_reservedD : decodeTableWord 72 0xD0000000000000000 = some .reservedD := by decide
theorem test_decode_reservedE : decodeTableWord 72 0xE0000000000000000 = some .reservedE := by decide
theorem test_decode_reservedF : decodeTableWord 72 0xF0000000000001234 = some .reservedF := by decide
theorem test_decode_getDeviceInfo :
    decodeTableWord 40 0x0100000000 = some (.cmdGetDeviceInfo ⟨0, 0, 0, 0⟩) := by decide
theorem test_decode_obtainTemperature :
    decodeTableWord 40 0x0201020304 = some (.cmdObtainTemperature ⟨1, 2, 3, 4⟩) := by decide
theorem test_decode_setMeasurementFrequency :
    decodeTableWord 40 0x03000001F4 = some (.cmdSetMeasurementFrequency ⟨0, 0, 1, 0xF4⟩) := by decide
theorem test_decode_setDataFormat :
    decodeTableWord 40 0x0400000002 = some (.cmdSetDataFormat ⟨0, 0, 0, 2⟩) := by decide
theorem test_decode_startMeasurement :
    decodeTableWord 40 0x0500000000 = some (.cmdStartMeasurement ⟨0, 0, 0, 0⟩) := by decide
theorem test_decode_stopMeasurement :
    decodeTableWord 40 0x0600000000 = some (.cmdStopMeasurement ⟨0, 0, 0, 0⟩) := by decide
theorem test_decode_measurementData :
    decodeTableWord 40 0x07000005AD = some (.rspMeasurementData ⟨0, 0, 5, 0xAD⟩) := by decide
theorem test_decode_saveSettings :
    decodeTableWord 40 0x0800000000 = some (.cmdSaveSettings ⟨0, 0, 0, 0⟩) := by decide
theorem test_decode_getSerialNumber :
    decodeTableWord 40 0x0A00000000 = some (.cmdGetSerialNumber ⟨0, 0, 0, 0⟩) := by decide
theorem test_decode_setMeasurementMode :
    decodeTableWord 40 0x0D00000001 = some (.cmdSetMeasurementMode ⟨0, 0, 0, 1⟩) := by decide
theorem test_decode_highSpeedData :
    decodeTableWord 40 0x0E11223344 = some (.rspHighSpeedData ⟨0x11, 0x22, 0x33, 0x44⟩) := by decide
theorem test_decode_configureAddress :
    decodeTableWord 40 0x1100000000 = some (.cmdConfigureAddress ⟨0, 0, 0, 0⟩) := by decide
theorem test_decode_setBaudRate :
    decodeTableWord 40 0x1200000000 = some (.cmdSetBaudRate ⟨0, 0, 0, 0⟩) := by decide

/-! ## Meanings (95_test_vectors.md, sections 1 and 2) -/

theorem test_crc_check_value :
    crc8 [0x31, 0x32, 0x33, 0x34, 0x35, 0x36, 0x37, 0x38, 0x39] = 0xA2#8 := by decide +kernel

/-- Row `5_` of the table of R104. -/
theorem test_crc_table_row :
    (crcTable.drop 0x50).take 16 =
      [0x7E, 0x4F, 0x1C, 0x2D, 0xBA, 0x8B, 0xD8, 0xE9, 0xC7, 0xF6, 0xA5, 0x94, 0x03, 0x32, 0x61, 0x50] := by
  decide +kernel

theorem test_nop : answer (exec .nop (holding [0x55])) = some ⟨0, 0, 0⟩ := by decide +kernel

theorem test_crcClear :
    (after State.reset (exec .crcClear { State.reset with crcReg := 0x9C })).crcReg = 0x00#8 := by
  decide +kernel

theorem test_crcUpdate :
    answer (exec (.crcUpdate 0x06) State.reset) = some ⟨0, 1, 0xA6⟩ := by decide +kernel

theorem test_crcUpdate_depends_on_the_xor :
    (after State.reset (exec (.crcUpdate 0xAA) { State.reset with crcReg := 0x55 })).crcReg =
      0xAC#8 := by decide +kernel

theorem test_crcRead :
    answer (exec .crcRead { State.reset with crcReg := 0x9C }) = some ⟨0, 1, 0x9C⟩ := by
  decide +kernel

theorem test_encode_no_escaping :
    answer (exec (.encode ⟨0x55, 0xAA, 0x55, 0xAA, 0x55⟩) State.reset) =
      some ⟨0, 8, 0x5555AA55AA5548AA⟩ := by decide +kernel

theorem test_encode_unknown_command_id :
    answer (exec (.encode ⟨0x12, 0x34, 0x56, 0x78, 0x9A⟩) State.reset) =
      some ⟨0, 8, 0x55123456789AB0AA⟩ := by decide +kernel

theorem test_decode_ok :
    answer (exec (.decode ⟨0x55, 0x07, 0, 0, 0x09, 0xC4, 0x1B, 0xAA⟩) State.reset) =
      some ⟨0, 5, 0x07000009C4⟩ := by decide +kernel

theorem test_decode_framing_wins :
    answer (exec (.decode ⟨0x54, 0x05, 0, 0, 0, 0, 0xCD, 0xAB⟩) State.reset) =
        some ⟨1, 8, 0x540500000000CDAB⟩ ∧
      answer (exec (.decode ⟨0x55, 0x05, 0, 0, 0, 0x01, 0xCC, 0xAA⟩) State.reset) =
        some ⟨2, 8, 0x550500000001CCAA⟩ := by decide +kernel

theorem test_rxByte_first :
    answer (exec (.rxByte 0x00) State.reset) = some ⟨4, 1, 0x00⟩ ∧
      (after State.reset (exec (.rxByte 0x00) State.reset)).rxCount = 1 := by decide +kernel

theorem test_rxByte_eighth :
    answer (exec (.rxByte 0xAA) (holding [0x55, 0x05, 0, 0, 0, 0, 0xCD])) =
        some ⟨2, 8, 0x550500000000CDAA⟩ ∧
      (after State.reset (exec (.rxByte 0xAA) (holding [0x55, 0x05, 0, 0, 0, 0, 0xCD]))).rxCount =
        0 := by decide +kernel

theorem test_rxTimeout :
    answer (exec .rxTimeout (holding [0x55, 0x07, 0x00])) = some ⟨3, 3, 0x550700⟩ := by decide +kernel

theorem test_rxTimeout_empty : answer (exec .rxTimeout State.reset) = some ⟨3, 0, 0⟩ := by
  decide +kernel

theorem test_rxFlush :
    answer (exec .rxFlush (holding [0xAA, 0x55])) = some ⟨5, 2, 0xAA55⟩ := by decide +kernel

theorem test_rxFlush_empties :
    (after State.reset (exec .rxFlush (holding [0xAA, 0x55]))).rxBuf = Vector.replicate 8 none := by
  decide +kernel

theorem test_reserved_codes :
    ([Instr.reserved9, .reservedA, .reservedB, .reservedC, .reservedD, .reservedE, .reservedF].map
      fun i => answer (exec i (holding [0x55, 0x05, 0x00, 0x00]))) =
      List.replicate 7 (some ⟨0xF, 0, 0⟩) := by decide +kernel

theorem test_reserved_keeps_the_partial_frame :
    Holds (after State.reset (exec .reservedF (holding [0x55, 0x05]))) [0x55, 0x05] := by
  decide +kernel

/-- The literal frames of 45_command_payloads.md R161 to R173, and those derived there. -/
theorem test_command_frames :
    answer (exec (.cmdGetDeviceInfo ⟨0, 0, 0, 0⟩) State.reset) = some ⟨0, 8, 0x550100000000D3AA⟩ ∧
    answer (exec (.cmdObtainTemperature ⟨0, 0, 0, 0⟩) State.reset) = some ⟨0, 8, 0x55020000000097AA⟩ ∧
    answer (exec (.cmdSetMeasurementFrequency ⟨0, 0, 0x07, 0xD0⟩) State.reset) =
      some ⟨0, 8, 0x5503000007D0EEAA⟩ ∧
    answer (exec (.cmdSetDataFormat ⟨0, 0, 0, 2⟩) State.reset) = some ⟨0, 8, 0x5504000000027DAA⟩ ∧
    answer (exec (.cmdStartMeasurement ⟨0, 0, 0, 0⟩) State.reset) = some ⟨0, 8, 0x550500000000CCAA⟩ ∧
    answer (exec (.cmdStopMeasurement ⟨0, 0, 0, 0⟩) State.reset) = some ⟨0, 8, 0x55060000000088AA⟩ ∧
    answer (exec (.cmdSaveSettings ⟨0, 0, 0, 0⟩) State.reset) = some ⟨0, 8, 0x5508000000003EAA⟩ ∧
    answer (exec (.cmdGetSerialNumber ⟨0, 0, 0, 0⟩) State.reset) = some ⟨0, 8, 0x550A00000000A9AA⟩ ∧
    answer (exec (.cmdSetMeasurementMode ⟨0, 0, 0, 2⟩) State.reset) =
      some ⟨0, 8, 0x550D0000000290AA⟩ := by decide +kernel

/-- The spec gives no frame for these two; the delimiters, the id and the argument are fixed (R68). -/
theorem test_command_frames_without_a_vector :
    ([Instr.cmdConfigureAddress ⟨1, 2, 3, 4⟩, .cmdSetBaudRate ⟨1, 2, 3, 4⟩].map fun i =>
      (answer (exec i State.reset)).map fun r => r.data.extractLsb' 16 48) =
      [some 0x551101020304, some 0x551201020304] := by decide +kernel

theorem test_measurement_is_received :
    answer (exec (.rspMeasurementData ⟨0, 0, 0x05, 0xAD⟩) State.reset) =
      some ⟨0, 5, 0x07000005AD⟩ := by decide +kernel

theorem test_high_speed_data_is_received :
    (after State.reset (exec (.rspHighSpeedData ⟨1, 2, 3, 4⟩) State.reset)).responses.length = 8 ∧
      answer (exec (.rspHighSpeedData ⟨1, 2, 3, 4⟩) State.reset) = some ⟨0, 5, 0x0E01020304⟩ := by
  decide +kernel

theorem test_unwrap_short_frames :
    unwrap [] = .framingError ∧ unwrap [0x55, 0xAA] = .framingError ∧ unwrap [0x55, 0, 0xAA] = .ok [] ∧
      unwrap [0x55, 1, 2, 3, 0xCC, 0xAA] = .ok [1, 2, 3] := by decide +kernel

theorem test_payload_fields :
    readMeasurement ⟨0x07, 0x00, 0xFF, 0xFF, 0xFF⟩ = .ok ⟨0, 16777215⟩ ∧
      readDeviceSettings ⟨0x01, 0x01, 0x01, 0x00, 0x0A⟩ = .ok ⟨1, 1, 10⟩ ∧
      readDeviceVersion ⟨0x01, 0x10, 1, 2, 3⟩ = .ok ⟨0x10, 1, 2, 3⟩ := by decide

theorem test_written_forms :
    lineText ⟨.encode, [0x05, 0, 0, 0, 0x9C]⟩ = "ENCODE 0x05, 0x00, 0x00, 0x00, 0x9C".toList ∧
      requestText 0x6000000000000009C#68 = "6:000000000000009C".toList ∧
      responseText .frameTimeout [0x55, 0x07, 0x00] = "FRAME_TIMEOUT len=3 data=0x550700".toList ∧
      responseText .flushed [] = "FLUSHED len=0 data=0x0".toList := by decide +kernel

/-! ## Witnesses: a concrete state and operands for the hypotheses of each statement -/

theorem witness_ResetAndIdleStepByStep :
    (waiting State.reset .assertReset).inputs = .assertReset :: [] ∧
    (waiting State.reset (.issueCutByReset (.request 0))).inputs = .issueCutByReset (.request 0) :: [] ∧
    (waiting { State.reset with inReset := true } (.issue (.request 0))).inputs =
      .issue (.request 0) :: [] ∧
    (waiting { State.reset with inReset := true } (.issue (.request 0))).inReset = true ∧
    (waiting State.reset .releaseReset).inputs = .releaseReset :: [] ∧
    (holding [0x55]).inputs = [] := by decide

theorem witness_ResetEpisodeLeavesTheResetValues :
    (Input.issueCutByReset (.request 0) = .assertReset ∨
      ∃ w, Input.issueCutByReset (.request 0) = .issueCutByReset w) ∧
    ({ holding [0x55] with
      inputs := [.issueCutByReset (.request 0), .issue (.request 1), .releaseReset] } : State).inputs =
      .issueCutByReset (.request 0) :: ([ProgramWord.request 1].map Input.issue ++ .releaseReset :: []) :=
  ⟨.inr ⟨_, rfl⟩, rfl⟩

theorem witness_StepRunsTheDecodedInstruction :
    (waiting State.reset (.issue (.request 0x3#68))).inputs = .issue (.request 0x3#68) :: [] ∧
    (waiting State.reset (.issue (.request 0x3#68))).inReset = false ∧
    decodeWord (.request 0x3#68) = .ok .nop := by decide

theorem witness_PlacedTableWordIsRun :
    decodeTableWord 40 0x0700000001 = some (.rspMeasurementData ⟨0, 0, 0, 1⟩) := by decide

theorem witness_EveryRequestGetsOneResponse :
    RxInv (waiting (holding [1, 2]) (.issue (.request 0))) ∧
    (waiting (holding [1, 2]) (.issue (.request 0))).inputs = .issue (.request 0) :: [] ∧
    (waiting (holding [1, 2]) (.issue (.request 0))).inReset = false ∧
    RxInv (waiting (holding [1, 2]) (.issueCutByReset (.request 0))) ∧
    (waiting (holding [1, 2]) (.issueCutByReset (.request 0))).inputs =
      .issueCutByReset (.request 0) :: [] ∧
    ({ holding [1, 2] with inputs := [.issue (.request 1), .issue (.request 2)] } : State).inputs =
      ([1, 2] : List (BitVec 68)).map fun v => .issue (.request v) := by decide +kernel

theorem witness_EveryStep :
    RxInv (waiting (holding [1]) .releaseReset) ∧
    step (waiting (holding [1]) .releaseReset) = .next (holding [1]) := ⟨by decide +kernel, rfl⟩

theorem witness_SafeStatesNeverStop :
    Safe (waiting (holding [1]) (.issue (.payload 0x1200000000#40))) :=
  ⟨by decide +kernel, by simp [InputsNamed, waiting, inputNamed, ProgramWord.wellFormed]; decide⟩

theorem witness_EncodeOfDecodeClearsIgnoredLanes :
    decodePayload 0x0E00000001#40 = .ok (.rspHighSpeedData ⟨0, 0, 0, 1⟩) := by decide

theorem witness_EveryRequestWordSelectsOneRow :
    requestRow 0xF ∈ opcodeTable ∧ requestOp 0xF0000000000000001#68 = requestOp 0xF0000000000000002#68 := by
  decide

theorem witness_PayloadWordsDecodeByCommandId :
    (ProgramWord.payload 0x12FFFFFFFF#40).wellFormed = true ∧
    (ProgramWord.payload 0x1300000000#40).wellFormed = false ∧
    (ProgramWord.payload 0x0000000000#40).wellFormed = false ∧
    (ProgramWord.payload 0x0100000000#40).wellFormed = true ∧ payloadRow 0x12 ∈ opcodeTable := by decide

theorem witness_IgnoredLanesNeverChangeTheOutcome :
    requestOp 0x4FFFFFF0500000000#68 = requestOp 0x40000000500000000#68 ∧
    (requestData 0x4FFFFFF0500000000#68).toNat %
        2 ^ (8 * operandBytesOf (requestOp 0x40000000500000000#68)) =
      (requestData 0x40000000500000000#68).toNat %
        2 ^ (8 * operandBytesOf (requestOp 0x40000000500000000#68)) := by decide

theorem witness_UnpackUndoesPack : ([1, 2, 3, 4, 5, 6, 7, 8] : List Byte).length ≤ 8 := by decide

theorem witness_BigEndianBytesUndoTheInteger : 65535 < 256 ^ 2 ∧ 0 < 256 ^ 0 := by decide

theorem witness_OnlyTheCrcOperationsWriteCrcReg :
    exec .crcRead State.reset = .next (State.reset.respond .ok [0]) ∧ writesCrc .crcRead = false ∧
    exec .crcClear State.reset = .next (State.reset.respond .ok [0]) ∧
    exec (.crcUpdate 0) State.reset = .next (State.reset.respond .ok [0]) := ⟨rfl, rfl, rfl, rfl⟩

/-- The byte changed at each end of the range of R134 and at each end of the payload and CRC. -/
theorem witness_OneChangedByteIsDetected :
    let f : Frame := ⟨0x55, 0x05, 0, 0, 0, 0, 0xCC, 0xAA⟩
    (frameResponse f).status = 0 ∧
    ((f.toList[(0 : Fin 8).val]? ≠ some 0x54 ∧
        Frame.toList ⟨0x54, 0x05, 0, 0, 0, 0, 0xCC, 0xAA⟩ = f.toList.set (0 : Fin 8).val 0x54) ∧
      (f.toList[(1 : Fin 8).val]? ≠ some 0x04 ∧
        Frame.toList ⟨0x55, 0x04, 0, 0, 0, 0, 0xCC, 0xAA⟩ = f.toList.set (1 : Fin 8).val 0x04) ∧
      (f.toList[(6 : Fin 8).val]? ≠ some 0xCD ∧
        Frame.toList ⟨0x55, 0x05, 0, 0, 0, 0, 0xCD, 0xAA⟩ = f.toList.set (6 : Fin 8).val 0xCD) ∧
      (f.toList[(7 : Fin 8).val]? ≠ some 0xAB ∧
        Frame.toList ⟨0x55, 0x05, 0, 0, 0, 0, 0xCC, 0xAB⟩ = f.toList.set (7 : Fin 8).val 0xAB)) := by
  decide +kernel

/-- Accumulators at the ends of both clauses of RX_BYTE: none, six and seven bytes. -/
theorem witness_RxResults :
    Holds (holding []) [] ∧ ([] : List Byte).length < 7 ∧
    Holds (holding [1, 2, 3, 4, 5, 6]) [1, 2, 3, 4, 5, 6] ∧ ([1, 2, 3, 4, 5, 6] : List Byte).length < 7 ∧
    Holds (holding [1, 2, 3, 4, 5, 6, 7]) [1, 2, 3, 4, 5, 6, 7] ∧
    ([1, 2, 3, 4, 5, 6, 7] : List Byte).length = 7 := by decide +kernel

theorem witness_AbsentSlotsAreRefused :
    (0 : Fin 8) < ({ State.reset with rxCount := 7 } : State).rxCount ∧
    ({ State.reset with rxCount := 7 } : State).rxBuf[(0 : Fin 8)] = none ∧
    (0 : Fin 8) < ({ State.reset with rxCount := 1 } : State).rxCount := by decide +kernel

/-- An empty accumulator, for the statements on whole frames, streams and timeouts, and byte sequences
at both ends of the range of the timeout's. -/
theorem witness_EmptyAccumulator :
    Holds State.reset [] ∧ ([] : List Byte).length ≤ 7 ∧ ([1, 2, 3, 4, 5, 6, 7] : List Byte).length ≤ 7 := by
  decide +kernel

theorem witness_OnlyTheDeframerWritesTheAccumulator :
    exec .nop (holding [1]) = .next ((holding [1]).respond .ok []) ∧ writesAccumulator .nop = false :=
  ⟨rfl, rfl⟩

theorem witness_CrcUnitAndDeframerShareNoState :
    (Instr.rxByte 0x55 = .rxTimeout ∨ Instr.rxByte 0x55 = .rxFlush ∨ ∃ b, Instr.rxByte 0x55 = .rxByte b) ∧
    (Instr.crcRead = .crcClear ∨ Instr.crcRead = .crcRead ∨ (∃ d, Instr.crcRead = .crcUpdate d) ∨
      (∃ p, Instr.crcRead = .encode p) ∨ ∃ f, Instr.crcRead = .decode f) :=
  ⟨.inr (.inr ⟨_, rfl⟩), .inr (.inl rfl)⟩

theorem witness_InterleavingChangesNeitherUnit : RxInv (holding [1, 2, 3]) := by decide +kernel

/-- R29: a step returns its own response and keeps no earlier one. -/
theorem test_step_keeps_no_response :
    step { waiting State.reset (.issue (.request 0)) with responses := [⟨0xF, 0, 0⟩] } =
        .next (State.reset.respond .ok []) ∧
      step { State.reset with responses := [⟨0xF, 0, 0⟩] } = .next State.reset := ⟨rfl, rfl⟩

theorem witness_NoInstructionTouchesTheInputs :
    exec .nop (waiting State.reset .assertReset) =
      .next ((waiting State.reset .assertReset).respond .ok []) := rfl

theorem witness_StatelessOperationsRepeat :
    Instr.reserved9 ∈ [Instr.nop, .crcRead, .reserved9, .reservedA, .reservedB, .reservedC, .reservedD,
      .reservedE, .reservedF] := by decide

theorem witness_ReservedCodesResult :
    (0xF#4, Instr.reservedF) ∈ [(0x9#4, Instr.reserved9), (0xA#4, .reservedA), (0xB#4, .reservedB),
      (0xC#4, .reservedC), (0xD#4, .reservedD), (0xE#4, .reservedE), (0xF#4, .reservedF)] := by decide

theorem witness_DeviceResponseRowsMixWithAPartialFrame : RxInv (holding [0xAA, 0x55]) := by decide +kernel

/-- Both clauses at their boundary values: 0, 1, `FREQ_MAX` and the value above it. -/
theorem witness_SetFrequencyBuilder :
    buildCommand (.setFrequency 0) = .error .outOfRange ∧
    (1 ≤ 1 ∧ 1 ≤ freqMax ∧
      buildCommand (.setFrequency 1) = .ok (.cmdSetMeasurementFrequency ⟨0, 0, 0, 1⟩)) ∧
    (1 ≤ freqMax ∧ freqMax ≤ freqMax ∧ buildCommand (.setFrequency freqMax) =
      .ok (.cmdSetMeasurementFrequency (if freqMax = 500 then ⟨0, 0, 1, 0xF4⟩ else ⟨0, 0, 7, 0xD0⟩))) ∧
    (freqMax < freqMax + 1 ∧ buildCommand (.setFrequency (freqMax + 1)) = .error .outOfRange) := by
  unfold buildCommand freqMax
  cases Config.freqMaxIs2000 <;> decide

end Sys2Proof.Tests
end

section
/-! PROOFS. The family of spec/00_scope.md: `BE` and `BE_n` undo each other (R9), and no instruction
touches what the host and the reset source do next (R7, R20; log entries 2 and 4). -/

namespace Sys2Proof.Machine

/-! ## Big-endian integers -/

@[simp] theorem beBytes_length (n v : Nat) : (beBytes n v).length = n := by
  induction n with
  | zero => rfl
  | succ n ih => simp [beBytes, ih]

/-- `BE_n` reads its integer modulo `256^n`. -/
theorem beBytes_mul_add (n k v : Nat) : beBytes n (k * 256 ^ n + v) = beBytes n v := by
  induction n generalizing k with
  | zero => rfl
  | succ n ih =>
    have regroup : k * 256 ^ (n + 1) + v = k * 256 * 256 ^ n + v := by rw [Nat.pow_succ]; ring
    have quotient : (k * 256 * 256 ^ n + v) / 256 ^ n = k * 256 + v / 256 ^ n := by
      rw [Nat.add_comm, Nat.add_mul_div_right _ _ (Nat.pow_pos (by decide)), Nat.add_comm]
    have head : BitVec.ofNat 8 (k * 256 + v / 256 ^ n) = BitVec.ofNat 8 (v / 256 ^ n) := by
      apply BitVec.eq_of_toNat_eq
      simp only [BitVec.toNat_ofNat]
      omega
    rw [regroup, beBytes, beBytes, quotient, head, ih]

/-- `BE` of `BE_n` is the remainder modulo `256^n`, whatever the integer. -/
theorem be_beBytes (n v : Nat) : be (beBytes n v) = v % 256 ^ n := by
  induction n with
  | zero => simp [beBytes, be, Nat.mod_one]
  | succ n ih =>
    calc be (beBytes (n + 1) v) = v / 256 ^ n % 256 * 256 ^ n + v % 256 ^ n := by
          rw [beBytes, be, beBytes_length, ih, BitVec.toNat_ofNat]
      _ = v % (256 ^ n * 256) := by rw [Nat.mod_mul, Nat.mul_comm, Nat.add_comm]
      _ = v % 256 ^ (n + 1) := by rw [Nat.pow_succ]

theorem be_lt (bs : List Byte) : be bs < 256 ^ bs.length := by
  induction bs with
  | nil => decide
  | cons b bs ih =>
    calc be (b :: bs) < b.toNat * 256 ^ bs.length + 256 ^ bs.length := Nat.add_lt_add_left ih _
      _ = (b.toNat + 1) * 256 ^ bs.length := by ring
      _ ≤ 256 * 256 ^ bs.length := Nat.mul_le_mul_right _ b.isLt
      _ = 256 ^ (b :: bs).length := by rw [List.length_cons, Nat.pow_succ, Nat.mul_comm]

theorem beBytes_be (bs : List Byte) : beBytes bs.length (be bs) = bs := by
  induction bs with
  | nil => rfl
  | cons b bs ih =>
    have head : (b.toNat * 256 ^ bs.length + be bs) / 256 ^ bs.length = b.toNat := by
      rw [Nat.add_comm, Nat.add_mul_div_right _ _ (Nat.pow_pos (by decide)),
        Nat.div_eq_of_lt (be_lt bs), Nat.zero_add]
    rw [List.length_cons, be, beBytes, head, BitVec.ofNat_toNat, BitVec.setWidth_eq,
      beBytes_mul_add, ih]

/-- Settles O19: the integer is recovered because it is its own remainder modulo `256^n`, the sequence
by induction on its bytes. -/
theorem bigEndianBytesUndoTheInteger : Obligations.BigEndianBytesUndoTheInteger := by
  refine ⟨fun n v hv => ⟨?_, beBytes_length n v⟩, fun bs => ⟨beBytes_be bs, be_lt bs⟩⟩
  rw [be_beBytes, Nat.mod_eq_of_lt hv]

/-! ## What an instruction can do -/

/-- The verdict on a frame is one response more. -/
theorem respondVerdict_eq_respond (s : State) (f : List Byte) :
    ∃ st bs, s.respondVerdict f = s.respond st bs := by
  obtain ⟨p, -, h⟩ | ⟨-, h⟩ | ⟨-, h⟩ := respondVerdict_cases s f <;> exact ⟨_, _, h⟩

/-- What an instruction can do when it answers a next state: it responds, with `crc_reg` written or
not; it receives bytes; or it empties the accumulator and responds. -/
theorem exec_next {i : Instr} {s t : State} (h : exec i s = .next t) :
    (∃ c st bs, t = { s with crcReg := c }.respond st bs) ∨
    (∃ bs, receiveBytes bs s = .next t) ∨
    (∃ st bs, t = s.rxClear.respond st bs) := by
  cases i with
  | nop | crcRead | encode
  | reserved9 | reservedA | reservedB | reservedC | reservedD | reservedE | reservedF
  | cmdGetDeviceInfo | cmdObtainTemperature | cmdSetMeasurementFrequency | cmdSetDataFormat
  | cmdStartMeasurement | cmdStopMeasurement | cmdSaveSettings | cmdGetSerialNumber
  | cmdSetMeasurementMode | cmdConfigureAddress | cmdSetBaudRate =>
    cases h
    exact .inl ⟨s.crcReg, _, _, rfl⟩
  | crcClear | crcUpdate =>
    cases h
    exact .inl ⟨_, _, _, rfl⟩
  | decode f =>
    cases h
    obtain ⟨st, bs, hv⟩ := respondVerdict_eq_respond s f.toList
    exact .inl ⟨s.crcReg, st, bs, hv⟩
  | rxByte b =>
    have one : receiveBytes [b] s = andThen (receiveByte b s) .next := rfl
    rw [show receiveByte b s = .next t from h] at one
    exact .inr (.inl ⟨[b], one⟩)
  | rspMeasurementData | rspHighSpeedData => exact .inr (.inl ⟨_, h⟩)
  | rxTimeout | rxFlush =>
    obtain ⟨bs, -, -, hk⟩ := withRxValid_next h
    cases hk
    exact .inr (.inr ⟨_, bs, rfl⟩)

/-! ## The model's input fields -/

/-- The waiting inputs and the reset input of `t` are those of `s`. -/
def SameInputs (s t : State) : Prop := t.inputs = s.inputs ∧ t.inReset = s.inReset

theorem SameInputs.trans {s t u : State} (hst : SameInputs s t) (htu : SameInputs t u) :
    SameInputs s u :=
  ⟨htu.1.trans hst.1, htu.2.trans hst.2⟩

/-- One received byte stores it or empties the accumulator, and responds. -/
theorem receiveByte_sameInputs {b : Byte} {s t : State} (h : receiveByte b s = .next t) :
    SameInputs s t := by
  obtain ⟨bs, -, -, rfl⟩ | ⟨bs, -, -, rfl⟩ := receiveByte_next h
  · exact ⟨rfl, rfl⟩
  · obtain ⟨st, bs', hv⟩ := respondVerdict_eq_respond s.rxClear (bs ++ [b])
    rw [hv]
    exact ⟨rfl, rfl⟩

theorem receiveBytes_sameInputs {bs : List Byte} {s t : State} (h : receiveBytes bs s = .next t) :
    SameInputs s t := by
  induction bs generalizing s with
  | nil =>
    cases h
    exact ⟨rfl, rfl⟩
  | cons b bs ih =>
    obtain ⟨u, hb, hbs⟩ := andThen_eq_next h
    exact (receiveByte_sameInputs hb).trans (ih hbs)

theorem exec_sameInputs {i : Instr} {s t : State} (h : exec i s = .next t) : SameInputs s t := by
  obtain ⟨c, st, bs, rfl⟩ | ⟨bs, hr⟩ | ⟨st, bs, rfl⟩ := exec_next h
  · exact ⟨rfl, rfl⟩
  · exact receiveBytes_sameInputs hr
  · exact ⟨rfl, rfl⟩

/-- Settles O51, by the three things an instruction can do. -/
theorem noInstructionTouchesTheInputs : Obligations.NoInstructionTouchesTheInputs :=
  fun _ _ _ h => exec_sameInputs h

end Sys2Proof.Machine
end

section
/-! PROOFS. The family of spec/10_state.md: the accumulator invariant of R24 along every step and run,
which instructions write `crc_reg` and the accumulator (R20 to R23), that no earlier response is read
(R26, R29), the reset values (R31), and which instruction a step runs (R25, R49). -/

namespace Sys2Proof.Machine

/-! ## The meaning of every instruction, one of three -/

/-- The verdict on a frame is one response more, which depends on the frame alone. -/
theorem respondVerdict_eq (s : State) (f : List Byte) :
    s.respondVerdict f = s.respond (verdictStatus (unwrap f)) (verdictBytes f (unwrap f)) := by
  unfold State.respondVerdict
  cases unwrap f <;> rfl

/-- RX_BYTE before the eighth byte of a frame. -/
theorem receiveByte_of_room {s : State} (room : s.rxCount.val < 7) (b : Byte) :
    receiveByte b s =
      withRxValid (s.rxStore b) fun bs => .next ((s.rxStore b).respond .pending bs) :=
  if_pos room

/-- RX_BYTE on the eighth byte of a frame. -/
theorem receiveByte_of_full {s : State} (full : ¬ s.rxCount.val < 7) (b : Byte) :
    receiveByte b s = withRxValid s fun bs => .next (s.rxClear.respondVerdict (bs ++ [b])) :=
  if_neg full

/-- The three forms that the meaning of an instruction has, each as an equation for every state. They
differ in what the instruction writes: at most `crc_reg`, or at most the accumulator. -/
inductive Meaning (i : Instr) : Prop where
  /-- It answers at once; what it writes to `crc_reg` and answers depends on `crc_reg` alone. -/
  | answers (f : Byte → Byte) (st : Status) (reply : Byte → List Byte)
      (noRx : writesAccumulator i = false) (crc : writesCrc i = false → f = id)
      (run : ∀ s, exec i s = .next ({ s with crcReg := f s.crcReg }.respond st (reply s.crcReg)))
  /-- It receives bytes. -/
  | receives (bs : List Byte) (rx : writesAccumulator i = true)
      (run : ∀ s, exec i s = receiveBytes bs s)
  /-- It empties the accumulator and answers with the bytes that it held. -/
  | drains (st : Status) (rx : writesAccumulator i = true)
      (run : ∀ s, exec i s = withRxValid s fun bs => .next (s.rxClear.respond st bs))

/-- An instruction that does nothing but answer the same in every state. -/
theorem Meaning.of_constant {i : Instr} {st : Status} {bs : List Byte}
    (noRx : writesAccumulator i = false) (run : ∀ s, exec i s = .next (s.respond st bs)) : Meaning i :=
  .answers id st (fun _ => bs) noRx (fun _ => rfl) run

theorem exec_meaning (i : Instr) : Meaning i := by
  cases i with
  | nop
  | reserved9 | reservedA | reservedB | reservedC | reservedD | reservedE | reservedF
  | encode
  | cmdGetDeviceInfo | cmdObtainTemperature | cmdSetMeasurementFrequency | cmdSetDataFormat
  | cmdStartMeasurement | cmdStopMeasurement | cmdSaveSettings | cmdGetSerialNumber
  | cmdSetMeasurementMode | cmdConfigureAddress | cmdSetBaudRate =>
    exact .of_constant rfl fun _ => rfl
  | decode f => exact .of_constant rfl fun s => congrArg _ (respondVerdict_eq s f.toList)
  | crcRead => exact .answers id .ok (fun c => [c]) rfl (fun _ => rfl) fun _ => rfl
  | crcClear => exact .answers (fun _ => crcInit) .ok (fun _ => [crcInit]) rfl nofun fun _ => rfl
  | crcUpdate d =>
    exact .answers (crcStep · d) .ok (fun c => [crcStep c d]) rfl nofun fun _ => rfl
  | rxByte b =>
    refine .receives [b] rfl fun s => ?_
    change receiveByte b s = andThen (receiveByte b s) .next
    cases receiveByte b s <;> rfl
  | rspMeasurementData | rspHighSpeedData => exact .receives _ rfl fun _ => rfl
  | rxTimeout | rxFlush => exact .drains _ rfl fun _ => rfl

/-! ## The accumulator invariant (R24) -/

/-- The bytes in the slots below `rx_count`, under the invariant. -/
def heldBytes (s : State) : List Byte := (s.rxBuf.toList.take s.rxCount.val).map (·.getD 0)

theorem heldBytes_length (s : State) : (heldBytes s).length = s.rxCount.val := by
  have := s.rxCount.isLt
  simp only [heldBytes, List.length_map, List.length_take, Vector.length_toList]
  omega

theorem RxInv.holds {s : State} (h : RxInv s) : Holds s (heldBytes s) := by
  refine ⟨(heldBytes_length s).symm, fun i => ?_⟩
  have hi := h i
  by_cases below : i < s.rxCount
  · obtain ⟨b, hb⟩ : ∃ b, s.rxBuf[i] = some b := by simpa [below, Option.isSome_iff_exists] using hi
    have hb' : s.rxBuf[i.val] = some b := hb
    simp [heldBytes, hb', Fin.lt_def.mp below]
  · have absent : s.rxBuf[i] = none := by simpa [below] using hi
    rw [absent, eq_comm, List.getElem?_eq_none_iff, heldBytes_length]
    exact Nat.le_of_not_lt below

/-- Settles O43: the slots' own values are the bytes. -/
theorem accumulatorInvariantIsHoldingBytes : Obligations.AccumulatorInvariantIsHoldingBytes := by
  refine fun s => ⟨fun h => ⟨heldBytes s, ?_, h.holds⟩, fun ⟨_, _, h⟩ => h.rxInv⟩
  rw [heldBytes_length]
  exact Nat.le_of_lt_succ s.rxCount.isLt

theorem rxInv_rxClear (s : State) : RxInv s.rxClear := (holds_rxClear s).rxInv

/-- Under the invariant one received byte is never refused, and the invariant is kept: the byte is
stored, or it is the eighth and the accumulator is emptied. -/
theorem receiveByte_of_rxInv {s : State} (h : RxInv s) (b : Byte) :
    ∃ t, receiveByte b s = .next t ∧ RxInv t := by
  have hl := heldBytes_length s
  have hc := s.rxCount.isLt
  by_cases room : (heldBytes s).length < 7
  · exact ⟨_, h.holds.receiveByte_pending room b, (h.holds.rxStore room b).rxInv⟩
  · refine ⟨_, h.holds.receiveByte_verdict (by omega) b, ?_⟩
    rw [respondVerdict_eq]
    exact rxInv_rxClear s

theorem receiveBytes_of_rxInv {s : State} (h : RxInv s) (bs : List Byte) :
    ∃ t, receiveBytes bs s = .next t ∧ RxInv t := by
  induction bs generalizing s with
  | nil => exact ⟨s, rfl, h⟩
  | cons b bs ih =>
    obtain ⟨u, hu, hinv⟩ := receiveByte_of_rxInv h b
    simpa [receiveBytes, hu] using ih hinv

/-- Under the invariant no instruction stops, and every instruction keeps the invariant. -/
theorem exec_of_rxInv {s : State} (h : RxInv s) (i : Instr) : ∃ t, exec i s = .next t ∧ RxInv t := by
  cases exec_meaning i with
  | answers f st reply _ _ run => exact ⟨_, run s, h⟩
  | receives bs _ run => rw [run]; exact receiveBytes_of_rxInv h bs
  | drains st _ run =>
    refine ⟨s.rxClear.respond st (heldBytes s), ?_, rxInv_rxClear s⟩
    simp [run, withRxValid, h.holds.rxValid]

theorem exec_rxInv {i : Instr} {s t : State} (h : RxInv s) (he : exec i s = .next t) : RxInv t := by
  obtain ⟨u, hu, hinv⟩ := exec_of_rxInv h i
  cases hu.symm.trans he
  exact hinv

theorem takeInput_rxInv {x : Input} {s t : State} (h : RxInv s) (hx : takeInput x s = .next t) :
    RxInv t := by
  obtain ⟨_, _, _, rfl⟩ | ⟨_, _, _, _, _, he⟩ | ⟨_, rfl⟩ | ⟨_, rfl⟩ := takeInput_next hx
  · exact h
  · exact exec_rxInv h he
  · exact rxInv_rxClear s
  · exact h

/-- Settles O8, by what a step can do: idle, drop a request, run an instruction, or follow the reset
input. -/
theorem everyStepKeepsTheAccumulatorInvariant : Obligations.EveryStepKeepsTheAccumulatorInvariant := by
  intro s t h hstep
  obtain ⟨_, rfl⟩ | ⟨x, rest, _, hx⟩ := takeNext_next hstep
  · exact h
  · exact takeInput_rxInv (s := { s with inputs := rest, responses := [] }) h hx

/-! ## Safe runs -/

theorem decodePayload_of_named {w : BitVec 40} (h : (ProgramWord.payload w).wellFormed = true) :
    ∃ i, decodePayload w = .ok i := by
  simp only [ProgramWord.wellFormed, namedCommandIds, List.contains_eq_mem, List.mem_cons,
    List.not_mem_nil, or_false, decide_eq_true_eq] at h
  unfold decodePayload
  rcases h with h | h | h | h | h | h | h | h | h | h | h | h | h <;> rw [h] <;> exact ⟨_, rfl⟩

theorem decodeWord_of_wellFormed {w : ProgramWord} (h : w.wellFormed = true) :
    ∃ i, decodeWord w = .ok i := by
  cases w with
  | request w => exact ⟨decodeRequest w, rfl⟩
  | payload w => exact decodePayload_of_named h

theorem runWord_of_decode {w : ProgramWord} {i : Instr} (h : decodeWord w = .ok i) (s : State) :
    runWord w s = exec i s := by
  simp [runWord, h]

/-- Under the invariant no named input stops. -/
theorem takeInput_answers {x : Input} {s : State} (h : RxInv s) (hx : inputNamed x = true) :
    ∃ t, takeInput x s = .next t := by
  cases x with
  | issue w =>
    obtain ⟨i, hi⟩ := decodeWord_of_wellFormed hx
    obtain ⟨t, ht, _⟩ := exec_of_rxInv h i
    cases hr : s.inReset with
    | true => exact ⟨s, by simp [takeInput, hr]⟩
    | false => exact ⟨t, by simp [takeInput, hr, runWord_of_decode hi, ht]⟩
  | issueCutByReset | assertReset | releaseReset => exact ⟨_, rfl⟩

theorem takeInput_inputs {x : Input} {s t : State} (hx : takeInput x s = .next t) :
    t.inputs = s.inputs := by
  obtain ⟨_, _, _, rfl⟩ | ⟨_, _, _, _, _, he⟩ | ⟨_, rfl⟩ | ⟨_, rfl⟩ := takeInput_next hx
  · rfl
  · exact (exec_sameInputs he).1
  · rfl
  · rfl

/-- A step takes the first waiting input off and leaves the others. -/
theorem step_inputs {s t : State} (h : step s = .next t) : t.inputs = s.inputs.tail := by
  obtain ⟨hs, rfl⟩ | ⟨x, rest, hs, hx⟩ := takeNext_next h
  · simp [hs]
  · rw [takeInput_inputs hx, hs, List.tail_cons]

theorem step_answers {s : State} (h : Safe s) : ∃ t, step s = .next t := by
  obtain ⟨hinv, hnamed⟩ := h
  cases hs : s.inputs with
  | nil => exact ⟨_, step_idle hs⟩
  | cons x rest =>
    rw [step_input hs]
    exact takeInput_answers hinv (hnamed x (by simp [hs]))

theorem step_safe {s t : State} (h : Safe s) (hstep : step s = .next t) : Safe t := by
  refine ⟨everyStepKeepsTheAccumulatorInvariant s t h.1 hstep, fun x hx => h.2 x ?_⟩
  rw [step_inputs hstep] at hx
  exact List.mem_of_mem_tail hx

/-- Settles O10, by induction on the number of steps. -/
theorem safeStatesNeverStop : Obligations.SafeStatesNeverStop := by
  intro n
  induction n with
  | zero => exact fun s h => ⟨s, rfl, h⟩
  | succ n ih =>
    intro s h
    obtain ⟨u, hu⟩ := step_answers h
    simpa [runSteps, hu] using ih u (step_safe h hu)

/-! ## What an instruction writes -/

theorem receiveBytes_crcReg {bs : List Byte} {s t : State} (h : receiveBytes bs s = .next t) :
    t.crcReg = s.crcReg := by
  induction bs generalizing s with
  | nil => cases h; rfl
  | cons b bs ih =>
    obtain ⟨u, hb, hbs⟩ := andThen_eq_next h
    rw [ih hbs]
    obtain ⟨_, _, _, rfl⟩ | ⟨_, _, _, rfl⟩ := receiveByte_next hb
    · rfl
    · rw [respondVerdict_eq]; rfl

theorem exec_crcReg_of_not_writesCrc {i : Instr} {s t : State} (h : exec i s = .next t)
    (hi : writesCrc i = false) : t.crcReg = s.crcReg := by
  cases exec_meaning i with
  | answers f st reply _ crc run =>
    rw [run, crc hi] at h
    cases h
    rfl
  | receives bs _ run => exact receiveBytes_crcReg ((run s).symm.trans h)
  | drains st _ run =>
    obtain ⟨_, _, _, hk⟩ := withRxValid_next ((run s).symm.trans h)
    cases hk
    rfl

/-- Settles O31: the two writers by their meanings, the others by the three forms of a meaning. -/
theorem onlyTheCrcOperationsWriteCrcReg : Obligations.OnlyTheCrcOperationsWriteCrcReg := by
  refine fun i s t h => ⟨?_, ?_, exec_crcReg_of_not_writesCrc h⟩
  · rintro rfl
    cases h
    rfl
  · rintro d rfl
    cases h
    rfl

/-- Settles O47: of the three forms of a meaning, only the answer at once leaves the accumulator out. -/
theorem onlyTheDeframerWritesTheAccumulator : Obligations.OnlyTheDeframerWritesTheAccumulator := by
  intro i s t h hi
  cases exec_meaning i with
  | answers f st reply _ _ run =>
    cases (run s).symm.trans h
    exact ⟨rfl, rfl⟩
  | receives _ rx _ | drains _ rx _ => cases hi.symm.trans rx

/-! ## Earlier responses (R26, R29) -/

/-- The state with a history of responses before its own. -/
def State.withHistory (s : State) (history : List Response) : State :=
  { s with responses := history ++ s.responses }

/-- A meaning that neither reads nor changes earlier responses. -/
def IgnoresHistory (k : State → Result) : Prop :=
  ∀ (s : State) (history : List Response),
    k (s.withHistory history) = mapNext (·.withHistory history) (k s)

theorem withHistory_respond (s : State) (history : List Response) (st : Status) (bs : List Byte) :
    (s.withHistory history).respond st bs = (s.respond st bs).withHistory history := by
  simp [State.withHistory, State.respond]

theorem withHistory_respondVerdict (s : State) (history : List Response) (f : List Byte) :
    (s.withHistory history).respondVerdict f = (s.respondVerdict f).withHistory history := by
  rw [respondVerdict_eq, respondVerdict_eq, withHistory_respond]

theorem rxValid_withHistory (s : State) (history : List Response) :
    (s.withHistory history).rxValid = s.rxValid := rfl

/-- Reading the accumulator ignores the history where the reader does. -/
theorem withRxValid_withHistory {s : State} {history : List Response} {k l : List Byte → Result}
    (h : ∀ bs, k bs = mapNext (·.withHistory history) (l bs)) :
    withRxValid (s.withHistory history) k = mapNext (·.withHistory history) (withRxValid s l) := by
  unfold withRxValid
  rw [rxValid_withHistory]
  cases s.rxValid with
  | none => rfl
  | some bs => exact h bs

theorem receiveByte_ignoresHistory (b : Byte) : IgnoresHistory (receiveByte b) := by
  intro s history
  by_cases room : s.rxCount.val < 7
  · rw [receiveByte_of_room room, receiveByte_of_room (s := s.withHistory history) room]
    exact withRxValid_withHistory (s := s.rxStore b) fun bs =>
      congrArg _ (withHistory_respond (s.rxStore b) history .pending bs)
  · rw [receiveByte_of_full room, receiveByte_of_full (s := s.withHistory history) room]
    exact withRxValid_withHistory fun bs =>
      congrArg _ (withHistory_respondVerdict s.rxClear history (bs ++ [b]))

theorem andThen_ignoresHistory {k l : State → Result} (hk : IgnoresHistory k)
    (hl : IgnoresHistory l) : IgnoresHistory fun s => andThen (k s) l := by
  intro s history
  simp only [hk s history, mapNext, andThen_assoc, andThen_next]
  congr
  funext t
  exact hl t history

theorem receiveBytes_ignoresHistory (bs : List Byte) : IgnoresHistory (receiveBytes bs) := by
  induction bs with
  | nil => exact fun _ _ => rfl
  | cons b bs ih => exact andThen_ignoresHistory (receiveByte_ignoresHistory b) ih

theorem exec_ignoresHistory (i : Instr) : IgnoresHistory (exec i) := by
  intro s history
  cases exec_meaning i with
  | answers f st reply _ _ run =>
    rw [run, run]
    exact congrArg _ (withHistory_respond { s with crcReg := f s.crcReg } history st (reply s.crcReg))
  | receives bs _ run =>
    rw [run, run]
    exact receiveBytes_ignoresHistory bs s history
  | drains st _ run =>
    rw [run, run]
    exact withRxValid_withHistory fun bs => congrArg _ (withHistory_respond s.rxClear history st bs)

/-- Settles O50: every meaning ignores the history, and a step drops it before it takes its input. -/
theorem noInstructionReadsTheResponses : Obligations.NoInstructionReadsTheResponses := by
  refine fun s history => ⟨fun i => ?_, rfl⟩
  have h := exec_ignoresHistory i { s with responses := [] } history
  rwa [State.withHistory, List.append_nil] at h

/-! ## Reset (R31) -/

/-- Settles O1. -/
theorem resetLeavesTheResetValues : Obligations.ResetLeavesTheResetValues :=
  ⟨rfl, rfl, fun i => by simp [State.reset]⟩

/-- Settles O2: the reset state holds no byte, no input and no response. -/
theorem resetStateIsSafe : Obligations.ResetStateIsSafe :=
  ⟨⟨rxInv_rxClear State.reset, nofun⟩, nofun⟩

/-! ## The instruction that a step runs (R25, R49) -/

/-- Settles O5. -/
theorem stepRunsTheDecodedInstruction : Obligations.StepRunsTheDecodedInstruction := by
  intro s w rest i hinputs hreset hi
  rw [step_input hinputs, ← runWord_of_decode hi]
  simp [takeInput, hreset]

/-- The decoder reads a table row's bits as the program word that they are. -/
theorem decodeTableWord_eq_some {nbits w : Nat} {i : Instr} (h : decodeTableWord nbits w = some i) :
    ∃ word, tableWord nbits w = some word ∧ decodeWord word = .ok i := by
  unfold decodeTableWord at h
  split at h
  · cases h
  · rename_i word hword
    split at h
    · rename_i j hj
      cases h
      exact ⟨word, hword, hj⟩
    · cases h

theorem withFetchWord_of_tableWord {nbits w : Nat} {word : ProgramWord}
    (h : tableWord nbits w = some word) (s : State) :
    s.withFetchWord nbits w = { s with inReset := false, inputs := .issue word :: s.inputs } := by
  simp [State.withFetchWord, placeWord, h]

/-- Settles O6: the placed word is the first waiting input, and reset is released. -/
theorem placedTableWordIsRun : Obligations.PlacedTableWordIsRun := by
  intro s nbits w i h
  obtain ⟨word, hword, hi⟩ := decodeTableWord_eq_some h
  rw [withFetchWord_of_tableWord hword]
  exact stepRunsTheDecodedInstruction _ word s.inputs i rfl rfl hi

/-! ## Absent slots (U3) -/

/-- The accumulator is unreadable as soon as one slot below `rx_count` holds no value. -/
theorem rxValid_eq_none {s : State} {i : Fin 8} (below : i < s.rxCount) (absent : s.rxBuf[i] = none) :
    s.rxValid = none := by
  rw [Option.eq_none_iff_forall_ne_some]
  intro bs hbs
  have slot := congrArg (·[i.val]?) (allPresent_eq_some.mp hbs)
  have absent' : s.rxBuf[i.val] = none := absent
  have hl := rxValid_length hbs
  simp [Fin.lt_def.mp below, absent', hl] at slot

theorem withRxValid_of_absent {s : State} {i : Fin 8} (below : i < s.rxCount)
    (absent : s.rxBuf[i] = none) (k : List Byte → Result) :
    withRxValid s k = .refused .rxSlotAbsent := by
  simp [withRxValid, rxValid_eq_none below absent]

/-- Storing a byte writes a slot at or above `rx_count`, so a slot absent below it stays absent. -/
theorem receiveByte_of_absent {s : State} {i : Fin 8} (below : i < s.rxCount)
    (absent : s.rxBuf[i] = none) (b : Byte) : receiveByte b s = .refused .rxSlotAbsent := by
  by_cases room : s.rxCount.val < 7
  · rw [receiveByte_of_room room]
    have count : (s.rxCount + 1).val = s.rxCount.val + 1 :=
      Fin.val_add_one_of_lt (Fin.lt_def.mpr room)
    have below' := Fin.lt_def.mp below
    refine withRxValid_of_absent (s := s.rxStore b) (i := i) (Fin.lt_def.mpr ?_) ?_ _
    · rw [rxStore_rxCount, count]
      omega
    · have absent' : s.rxBuf[i.val] = none := absent
      simp [absent', Nat.ne_of_gt below']
  · rw [receiveByte_of_full room]
    exact withRxValid_of_absent below absent _

/-- Settles O42. -/
theorem absentSlotsAreRefused : Obligations.AbsentSlotsAreRefused :=
  fun _ _ b below absent =>
    ⟨withRxValid_of_absent below absent _, withRxValid_of_absent below absent _,
      receiveByte_of_absent below absent b⟩

end Sys2Proof.Machine
end

section
/-! PROOFS. The family of spec/20_memory.md: the only state is `crc_reg` and the accumulator, so an
instruction that writes neither can be repeated (R48, R151). -/

namespace Sys2Proof.Machine

/-- An instruction that writes neither `crc_reg` nor the accumulator adds one response to every state,
and that response depends on `crc_reg` alone. -/
theorem exec_eq_append_of_writes_neither {i : Instr} (noCrc : writesCrc i = false)
    (noRx : writesAccumulator i = false) :
    ∃ reply : Byte → Response, ∀ s : State,
      exec i s = .next { s with responses := s.responses ++ [reply s.crcReg] } := by
  cases exec_meaning i with
  | answers f st bytes _ crc run =>
    refine ⟨fun c => mkResponse st (bytes c), fun s => ?_⟩
    rw [run, crc noCrc]
    rfl
  | receives _ rx _ | drains _ rx _ => cases noRx.symm.trans rx

/-- Settles O52: these instructions write neither `crc_reg` nor the accumulator, so the repeat finds the
`crc_reg` that its response depends on unchanged. -/
theorem statelessOperationsRepeat : Obligations.StatelessOperationsRepeat := by
  intro i hi s
  have writesNeither : writesCrc i = false ∧ writesAccumulator i = false := by
    obtain listed | ⟨p, rfl⟩ | ⟨f, rfl⟩ := hi
    · fin_cases listed <;> exact ⟨rfl, rfl⟩
    · exact ⟨rfl, rfl⟩
    · exact ⟨rfl, rfl⟩
  obtain ⟨noCrc, noRx⟩ := writesNeither
  obtain ⟨reply, run⟩ := exec_eq_append_of_writes_neither noCrc noRx
  exact ⟨reply s.crcReg, run s, run { s with responses := s.responses ++ [reply s.crcReg] }⟩

end Sys2Proof.Machine
end

section
/-! PROOFS. The family of spec/30_encoding.md: lanes and packing (R62, R63), requests and payload words
and their encoding both ways (R60, R64, R65, R71), the rows of the opcode table, written lines (R72), CRC.BLOCK
(R73), and the responses of every step (R61). -/

namespace Sys2Proof.Machine

/-! ## Lanes and packed bytes (R62, R63) -/

/-- The first lane of an operand stands above the lanes of the other bytes. -/
theorem unpack_succ (n : Nat) (data : Data) :
    unpack (n + 1) data = lane (n + 1) 0 data :: unpack n data := by
  have shift : ∀ i, lane (n + 1) (i + 1) data = lane n i data := fun i => by
    rw [lane, lane, show n + 1 - 1 - (i + 1) = n - 1 - i by omega]
  simp [unpack, List.range_succ_eq_map, shift, Function.comp_def]

/-- Lane selection reads the big-endian bytes of the operand bits. -/
theorem unpack_eq_beBytes (n : Nat) (data : Data) : unpack n data = beBytes n data.toNat := by
  induction n with
  | zero => rfl
  | succ n ih =>
    have head : lane (n + 1) 0 data = BitVec.ofNat 8 (data.toNat / 256 ^ n) := by
      apply BitVec.eq_of_toNat_eq
      rw [lane_toNat, BitVec.toNat_ofNat, Nat.add_sub_cancel, Nat.sub_zero, Nat.pow_mul]
    rw [unpack_succ, ih, head, beBytes]

/-- The lanes below any junk bits `k` read as the bytes in them. -/
theorem unpack_of_toNat {data : Data} {bs : List Byte} {k : Nat}
    (h : data.toNat = k * 256 ^ bs.length + be bs) : unpack bs.length data = bs := by
  rw [unpack_eq_beBytes, h, beBytes_mul_add, beBytes_be]

/-- Settles O18: packed bytes are the big-endian integer of the bytes, and lanes are its bytes. -/
theorem unpackUndoesPack : Obligations.UnpackUndoesPack := by
  intro bs short
  exact unpack_of_toNat (k := 0) (by rw [pack_toNat bs short, Nat.zero_mul, Nat.zero_add])

/-- Packing the low lanes back keeps their bits and clears those above. -/
theorem be_unpack (n : Nat) (data : Data) : be (unpack n data) = data.toNat % 2 ^ (8 * n) := by
  rw [unpack_eq_beBytes, be_beBytes, Nat.pow_mul]

/-! ## Operands (R64, R160) -/

theorem payload_toList_injective : Function.Injective Payload.toList := by
  rintro ⟨⟩ ⟨⟩ h
  simpa [Payload.toList] using h

theorem frame_toList_injective : Function.Injective Frame.toList := by
  rintro ⟨⟩ ⟨⟩ h
  simpa [Frame.toList] using h

theorem operandPayload_toList (data : Data) : (operandPayload data).toList = unpack 5 data := rfl

theorem operandFrame_toList (data : Data) : (operandFrame data).toList = unpack 8 data := rfl

/-- R63: the byte operand is read below any junk bits. -/
theorem operandByte_append (junk : BitVec 56) (b : Byte) : operandByte (junk ++ b) = b := by
  have low : (junk ++ b).toNat = junk.toNat * 256 ^ 1 + be [b] := by
    rw [append_toNat]
    simp [be]
  exact (List.cons.inj (unpack_of_toNat (bs := [b]) low)).1

/-- R63: the payload operand is read below any junk bits. -/
theorem operandPayload_append (junk : BitVec 24) (p : Payload) :
    operandPayload (junk ++ p.p0 ++ p.p1 ++ p.p2 ++ p.p3 ++ p.p4) = p := by
  apply payload_toList_injective
  refine unpack_of_toNat (bs := p.toList) (k := junk.toNat) ?_
  simp only [append_toNat, Payload.toList, be, List.length_cons, List.length_nil]
  omega

theorem operandFrame_dataOfFrame (f : Frame) : operandFrame (dataOfFrame f) = f := by
  apply frame_toList_injective
  rw [operandFrame_toList, ← pack_frame]
  exact unpackUndoesPack f.toList (by simp [Frame.toList])

theorem dataOfByte_operandByte (data : Data) :
    (dataOfByte (operandByte data)).toNat = data.toNat % 2 ^ (8 * 1) := by
  rw [dataOfByte, append_toNat, operandByte, lane_toNat]
  simp

theorem dataOfPayload_operandPayload (data : Data) :
    (dataOfPayload (operandPayload data)).toNat = data.toNat % 2 ^ (8 * 5) := by
  rw [← pack_payload, operandPayload_toList, pack_toNat _ (by simp [unpack]), be_unpack]

theorem dataOfFrame_operandFrame (data : Data) :
    (dataOfFrame (operandFrame data)).toNat = data.toNat % 2 ^ (8 * 8) := by
  rw [← pack_frame, operandFrame_toList, pack_toNat _ (by simp [unpack]), be_unpack]

theorem commandId_append (id : Byte) (a : Arg) :
    (id ++ a.a0 ++ a.a1 ++ a.a2 ++ a.a3).extractLsb' 32 8 = id := by
  apply BitVec.eq_of_toNat_eq
  simp only [extract_toNat, append_toNat]
  omega

theorem operandArg_append (id : Byte) (a : Arg) :
    operandArg (id ++ a.a0 ++ a.a1 ++ a.a2 ++ a.a3) = a := by
  obtain ⟨a0, a1, a2, a3⟩ := a
  rw [operandArg, Arg.mk.injEq]
  refine ⟨?_, ?_, ?_, ?_⟩ <;> apply BitVec.eq_of_toNat_eq <;>
    simp only [extract_toNat, append_toNat] <;> omega

/-- A payload word is its command id and its argument bytes. -/
theorem payloadWord_operandArg (w : BitVec 40) :
    payloadWord (w.extractLsb' 32 8) (operandArg w) = .payload w := by
  refine congrArg ProgramWord.payload (BitVec.eq_of_toNat_eq ?_)
  have := w.isLt
  simp only [append_toNat, operandArg, extract_toNat]
  omega

/-! ## Decoding and encoding (R64, R65, R71) -/

theorem decodeRequest_crcUpdate (junk : BitVec 56) (d : Byte) :
    decodeRequest (0x2#4 ++ (junk ++ d)) = .crcUpdate d := by
  rw [decodeRequest, requestOp_append, requestData_append, operandByte_append]
  rfl

theorem decodeRequest_encode (junk : BitVec 24) (p : Payload) :
    decodeRequest (0x4#4 ++ (junk ++ p.p0 ++ p.p1 ++ p.p2 ++ p.p3 ++ p.p4)) = .encode p := by
  rw [decodeRequest, requestOp_append, requestData_append, operandPayload_append]
  rfl

theorem decodeRequest_decode (f : Frame) : decodeRequest (0x5#4 ++ dataOfFrame f) = .decode f := by
  rw [decodeRequest, requestOp_append, requestData_append, operandFrame_dataOfFrame]
  rfl

theorem decodeRequest_rxByte (junk : BitVec 56) (b : Byte) :
    decodeRequest (0x6#4 ++ (junk ++ b)) = .rxByte b := by
  rw [decodeRequest, requestOp_append, requestData_append, operandByte_append]
  rfl

/-- Settles O15: the operation code selects the arm, and each operand is read below the junk bits. -/
theorem requestLanesAreReadAsTheTableSays : Obligations.RequestLanesAreReadAsTheTableSays := by
  intro x j7 j3 b p f
  refine ⟨?_, ?_, decodeRequest_crcUpdate j7 b, ?_, decodeRequest_encode j3 p, decodeRequest_decode f,
    decodeRequest_rxByte j7 b, ?_, ?_, ?_, ?_, ?_, ?_, ?_, ?_, ?_⟩
  all_goals
    rw [decodeRequest, requestOp_append]
    rfl

/-- Settles O11: the operation code or the command id selects the arm, and the operand comes back from
its lanes. -/
theorem decodeOfEncodeIsTheInstruction : Obligations.DecodeOfEncodeIsTheInstruction := by
  intro i
  cases i with
  | nop | crcClear | crcRead | rxTimeout | rxFlush
  | reserved9 | reservedA | reservedB | reservedC | reservedD | reservedE | reservedF => rfl
  | crcUpdate d => exact congrArg Except.ok (decodeRequest_crcUpdate 0 d)
  | encode p => exact congrArg Except.ok (decodeRequest_encode 0 p)
  | decode f => exact congrArg Except.ok (decodeRequest_decode f)
  | rxByte b => exact congrArg Except.ok (decodeRequest_rxByte 0 b)
  | cmdGetDeviceInfo a | cmdObtainTemperature a | cmdSetMeasurementFrequency a
  | cmdSetDataFormat a | cmdStartMeasurement a | cmdStopMeasurement a | rspMeasurementData a
  | cmdSaveSettings a | cmdGetSerialNumber a | cmdSetMeasurementMode a | rspHighSpeedData a
  | cmdConfigureAddress a | cmdSetBaudRate a =>
    rw [encodeInstr, payloadWord, decodeWord, decodePayload, commandId_append, operandArg_append]
    rfl

/-- The word of a decoded request keeps the operation code and the bits of the operand lanes, and has
zeros in the ignored lanes. -/
theorem encodeInstr_decodeRequest (w : BitVec 68) :
    ∃ data : Data, encodeInstr (decodeRequest w) = requestWord (requestOp w) data ∧
      data.toNat = (requestData w).toNat % 2 ^ (8 * operandBytesOf (requestOp w)) := by
  have zeros : (0 : Data).toNat = (requestData w).toNat % 2 ^ (8 * 0) := (Nat.mod_one _).symm
  have byte := dataOfByte_operandByte (requestData w)
  have payload := dataOfPayload_operandPayload (requestData w)
  have frame := dataOfFrame_operandFrame (requestData w)
  unfold decodeRequest
  rcases requestOp_cases (requestOp w) with h | h | h | h | h | h | h | h | h | h | h | h | h | h | h | h
    <;> rw [h] <;> refine ⟨_, rfl, ?_⟩
  exacts [zeros, zeros, byte, zeros, payload, frame, byte, zeros, zeros, zeros, zeros, zeros, zeros,
    zeros, zeros, zeros]

theorem encodeInstr_of_decodePayload {w : BitVec 40} {i : Instr} (h : decodePayload w = .ok i) :
    encodeInstr i = .payload w := by
  rw [← payloadWord_operandArg w]
  unfold decodePayload at h
  split at h
  case h_14 => cases h
  all_goals
    rename_i id
    cases h
    rw [id, encodeInstr]

/-- Settles O12, for requests and for payload words. -/
theorem encodeOfDecodeClearsIgnoredLanes : Obligations.EncodeOfDecodeClearsIgnoredLanes := by
  refine ⟨fun w => ?_, fun w i => encodeInstr_of_decodePayload⟩
  obtain ⟨data, word, bits⟩ := encodeInstr_decodeRequest w
  exact ⟨requestOp w ++ data, word, requestOp_append _ _, by rw [requestData_append, bits]⟩

theorem encodeInstr_injective : Function.Injective encodeInstr := by
  intro i j words
  have hi := decodeOfEncodeIsTheInstruction i
  rw [words, decodeOfEncodeIsTheInstruction j] at hi
  exact (Except.ok.inj hi).symm

/-- R63: the ignored lanes do not select the instruction. -/
theorem decodeRequest_eq_of_lanes {v w : BitVec 68} (op : requestOp v = requestOp w)
    (lanes : (requestData v).toNat % 2 ^ (8 * operandBytesOf (requestOp w)) =
      (requestData w).toNat % 2 ^ (8 * operandBytesOf (requestOp w))) :
    decodeRequest v = decodeRequest w := by
  obtain ⟨dv, wordv, bitsv⟩ := encodeInstr_decodeRequest v
  obtain ⟨dw, wordw, bitsw⟩ := encodeInstr_decodeRequest w
  have data : dv = dw := BitVec.eq_of_toNat_eq (by rw [bitsv, bitsw, op, lanes])
  apply encodeInstr_injective
  rw [wordv, wordw, op, data]

/-- Settles O16: the two words decode to one instruction, as both encode to the same word. -/
theorem ignoredLanesNeverChangeTheOutcome : Obligations.IgnoredLanesNeverChangeTheOutcome := by
  intro v w s op lanes
  rw [runWord, runWord, decodeWord, decodeWord, decodeRequest_eq_of_lanes op lanes]

/-! ## Rows of the opcode table (R65, R71) -/

/-- The row that the fixed bits of a word select: its operation code, or its command id. -/
def rowOfWord : ProgramWord → TableRow
  | .request w => requestRow (requestOp w).toNat
  | .payload w => payloadRow (w.extractLsb' 32 8).toNat

theorem fits_rowOfWord (w : ProgramWord) : w.fits (rowOfWord w) = true := by
  cases w with
  | request w =>
    have fits := Laws.EncodeFitsRow.request_fits (requestOp w) (requestData w)
    rwa [requestWord, requestOp_append_requestData] at fits
  | payload w =>
    have fits := Laws.EncodeFitsRow.payload_fits (w.extractLsb' 32 8) (operandArg w)
    rwa [payloadWord_operandArg] at fits

/-- All rows of one width fix the same bits. -/
theorem mask_of_mem {r : TableRow} (hr : r ∈ opcodeTable) (w : ProgramWord)
    (hw : w.width = r.width) : r.mask = (rowOfWord w).mask := by
  have requests : ∀ r ∈ opcodeTable, 68 = r.width → r.mask = 0xF <<< 64 := by decide
  have payloads : ∀ r ∈ opcodeTable, 40 = r.width → r.mask = 0xFF <<< 32 := by decide
  cases w with
  | request w => exact requests r hr hw
  | payload w => exact payloads r hr hw

/-- A word fits no row of the table but the one that its fixed bits select. -/
theorem fits_iff_of_mem {r : TableRow} (hr : r ∈ opcodeTable) (w : ProgramWord) :
    w.fits r = true ↔ r = rowOfWord w := by
  refine ⟨fun fits => ?_, fun h => h ▸ fits_rowOfWord w⟩
  have own := fits_rowOfWord w
  simp only [ProgramWord.fits, Bool.and_eq_true, beq_iff_eq] at fits own
  obtain ⟨width, pattern⟩ := fits
  obtain ⟨ownWidth, ownPattern⟩ := own
  have mask := mask_of_mem hr w width
  rw [TableRow.mk.injEq]
  exact ⟨width.symm.trans ownWidth, by rw [← pattern, ← ownPattern, mask], mask⟩

theorem rowOfWord_mem_iff (w : ProgramWord) : rowOfWord w ∈ opcodeTable ↔ w.wellFormed = true := by
  cases w with
  | request w =>
    have rows : ∀ op : BitVec 4, requestRow op.toNat ∈ opcodeTable := by decide
    exact iff_of_true (rows (requestOp w)) rfl
  | payload w =>
    have rows : ∀ id : Byte, payloadRow id.toNat ∈ opcodeTable ↔ namedCommandIds.contains id = true := by
      decide +kernel
    exact rows (w.extractLsb' 32 8)

/-- The row of an instruction is the one that its word selects. -/
theorem rowOfWord_encodeInstr (i : Instr) : rowOfWord (encodeInstr i) = instrRow i := by
  cases i with
  | nop | crcClear | crcUpdate | crcRead | encode | decode | rxByte | rxTimeout | rxFlush
  | reserved9 | reservedA | reservedB | reservedC | reservedD | reservedE | reservedF =>
    rw [encodeInstr, requestWord, rowOfWord, requestOp_append]
    rfl
  | cmdGetDeviceInfo | cmdObtainTemperature | cmdSetMeasurementFrequency | cmdSetDataFormat
  | cmdStartMeasurement | cmdStopMeasurement | rspMeasurementData | cmdSaveSettings
  | cmdGetSerialNumber | cmdSetMeasurementMode | rspHighSpeedData | cmdConfigureAddress
  | cmdSetBaudRate =>
    rw [encodeInstr, payloadWord, rowOfWord, commandId_append]
    rfl

theorem instrRow_decodeRequest (w : BitVec 68) :
    instrRow (decodeRequest w) = rowOfWord (.request w) := by
  obtain ⟨data, word, -⟩ := encodeInstr_decodeRequest w
  rw [← rowOfWord_encodeInstr, word, requestWord, rowOfWord, requestOp_append, rowOfWord]

/-- Settles O13: the row of a request is that of its operation code. -/
theorem everyRequestWordSelectsOneRow : Obligations.EveryRequestWordSelectsOneRow := by
  refine ⟨fun w => ?_, fun v w op => ?_⟩
  · rw [instrRow_decodeRequest]
    exact ⟨(rowOfWord_mem_iff _).mpr rfl, fun r hr => fits_iff_of_mem hr _⟩
  · rw [instrRow_decodeRequest, instrRow_decodeRequest, rowOfWord, rowOfWord, op]

theorem decodePayload_of_unnamed {w : BitVec 40} (h : (ProgramWord.payload w).wellFormed = false) :
    decodePayload w = .error (.unnamedCommandId (w.extractLsb' 32 8)) := by
  unfold decodePayload
  split
  case h_14 => rfl
  all_goals
    rename_i id
    rw [ProgramWord.wellFormed, id] at h
    cases h

/-- Settles O14: the word of the instruction is the word that was decoded, and an unnamed id has no row. -/
theorem payloadWordsDecodeByCommandId : Obligations.PayloadWordsDecodeByCommandId := by
  refine fun w => ⟨fun named => ?_, fun unnamed => ⟨decodePayload_of_unnamed unnamed, fun r hr => ?_⟩⟩
  · obtain ⟨i, hi⟩ := decodePayload_of_named named
    refine ⟨i, hi, fun r hr => ?_⟩
    rw [← rowOfWord_encodeInstr, encodeInstr_of_decodePayload hi]
    exact fits_iff_of_mem hr _
  · rw [← Bool.not_eq_true, fits_iff_of_mem hr]
    rintro rfl
    exact Bool.false_ne_true (unnamed.symm.trans ((rowOfWord_mem_iff _).mp hr))

/-- Settles O17: the seven words are decoded. -/
theorem writtenWordsDecode : Obligations.WrittenWordsDecode := by
  unfold Obligations.WrittenWordsDecode
  decide

/-! ## Written lines (R72) -/

/-- A line with the right number of operand bytes is the line of its instruction, and no other line is
an instruction. -/
theorem assemble_cases (l : AsmLine) :
    (l.wellFormed = true ∧ ∃ i, assemble l = some i ∧ disassemble i = some l) ∨
    (l.wellFormed = false ∧ assemble l = none) := by
  obtain ⟨m, operands⟩ := l
  cases m with
  | nop | crcClear | crcRead | rxTimeout | rxFlush =>
    match operands with
    | [] => exact .inl ⟨rfl, _, rfl, rfl⟩
    | _ :: _ => exact .inr ⟨rfl, rfl⟩
  | crcUpdate | rxByte =>
    match operands with
    | [_] => exact .inl ⟨rfl, _, rfl, rfl⟩
    | [] | _ :: _ :: _ => exact .inr ⟨rfl, rfl⟩
  | encode =>
    match operands with
    | [_, _, _, _, _] => exact .inl ⟨rfl, _, rfl, rfl⟩
    | [] | [_] | [_, _] | [_, _, _] | [_, _, _, _] | _ :: _ :: _ :: _ :: _ :: _ :: _ =>
      exact .inr ⟨rfl, rfl⟩
  | decode =>
    match operands with
    | [_, _, _, _, _, _, _, _] => exact .inl ⟨rfl, _, rfl, rfl⟩
    | [] | [_] | [_, _] | [_, _, _] | [_, _, _, _] | [_, _, _, _, _] | [_, _, _, _, _, _]
    | [_, _, _, _, _, _, _] | _ :: _ :: _ :: _ :: _ :: _ :: _ :: _ :: _ :: _ =>
      exact .inr ⟨rfl, rfl⟩

theorem assemble_of_disassemble {i : Instr} {l : AsmLine} (h : disassemble i = some l) :
    assemble l = some i := by
  cases i <;> cases h <;> rfl

/-- Settles O20, by the two kinds of lines. -/
theorem writtenLinesAndInstructionsAgree : Obligations.WrittenLinesAndInstructionsAgree := by
  refine ⟨fun l => ?_, fun l i => ⟨fun h => ?_, assemble_of_disassemble⟩⟩
  · obtain ⟨formed, i, hi, -⟩ | ⟨illFormed, hi⟩ := assemble_cases l
    · rw [formed, hi, Option.isSome_some]
    · rw [illFormed, hi, Option.isSome_none]
  · obtain ⟨-, j, hj, back⟩ | ⟨-, hj⟩ := assemble_cases l
    · cases hj.symm.trans h
      exact back
    · cases hj.symm.trans h

/-! ## CRC.BLOCK (R73, R107, R108) -/

/-- R107, R108: the response that carries the new value of `crc_reg`. -/
def crcReply (c : Byte) : Response := mkResponse .ok [c]

theorem crcReply_eq (c : Byte) : crcReply c = ⟨0x0#4, 1#4, c.setWidth 64⟩ := by
  simp [crcReply, mkResponse, statusCode, pack]

/-- A run of CRC_UPDATEs, from a state whose last response carried its `crc_reg`: one response for
each value that `crc_reg` takes on the way. -/
theorem execAll_map_crcUpdate (bytes : List Byte) (s : State) (c : Byte) :
    execAll (bytes.map .crcUpdate)
        { s with crcReg := c, responses := s.responses ++ [crcReply c] } =
      .next { s with
        crcReg := crcFrom c bytes
        responses := s.responses ++ (bytes.scanl crcStep c).map crcReply } := by
  induction bytes generalizing s c with
  | nil => rfl
  | cons b bytes ih =>
    have regroup : s.responses ++ ((b :: bytes).scanl crcStep c).map crcReply =
        s.responses ++ [crcReply c] ++ (bytes.scanl crcStep (crcStep c b)).map crcReply := by simp
    rw [regroup]
    exact ih { s with responses := s.responses ++ [crcReply c] } (crcStep c b)

/-- Settles O30: the responses carry the values that `crc_reg` takes, the last of them the CRC. -/
theorem crcBlockLeavesTheCrcOfItsBytes : Obligations.CrcBlockLeavesTheCrcOfItsBytes := by
  intro bytes s
  refine ⟨(bytes.scanl crcStep crcInit).map crcReply, execAll_map_crcUpdate bytes s crcInit, ?_, ?_⟩
  · rw [List.length_map, List.length_scanl]
  · rw [List.getLast?_map, List.getLast?_scanl, ← crcReply_eq]
    rfl

/-! ## Responses that the port may show (R61, R62, R190) -/

theorem mkResponse_ok (st : Status) {bs : List Byte} (short : bs.length ≤ 8) :
    ResponseOk (mkResponse st bs) := by
  have len : (mkResponse st bs).len.toNat = bs.length := by
    rw [mkResponse, BitVec.toNat_ofNat, Nat.mod_eq_of_lt (by omega)]
  have produced : statusCode st ∈ producedCodes := by cases st <;> decide
  exact ⟨produced, len ▸ short, len ▸ pack_lt bs short⟩

/-- `t` has `n` responses more than `s`, each of which the port may show. -/
def Returns (n : Nat) (s t : State) : Prop :=
  ∃ new : List Response, t.responses = s.responses ++ new ∧ new.length = n ∧ ∀ r ∈ new, ResponseOk r

theorem Returns.none {s t : State} (h : t.responses = s.responses) : Returns 0 s t :=
  ⟨[], by rw [h, List.append_nil], rfl, nofun⟩

/-- One response more, whatever else was written before it. -/
theorem Returns.respond {s u : State} (h : u.responses = s.responses) (st : Status) {bs : List Byte}
    (short : bs.length ≤ 8) : Returns 1 s (u.respond st bs) := by
  refine ⟨[mkResponse st bs], by rw [respond_responses, h], rfl, fun r hr => ?_⟩
  rw [List.mem_singleton.mp hr]
  exact mkResponse_ok st short

theorem Returns.trans {m n : Nat} {s t u : State} (hst : Returns m s t) (htu : Returns n t u) :
    Returns (m + n) s u := by
  obtain ⟨as, ht, rfl, okA⟩ := hst
  obtain ⟨bs, hu, rfl, okB⟩ := htu
  refine ⟨as ++ bs, by rw [hu, ht, List.append_assoc], List.length_append, fun r hr => ?_⟩
  exact (List.mem_append.mp hr).elim (okA r) (okB r)

/-- From a state with no response, the responses returned are all that there are. -/
theorem Returns.responses {n : Nat} {s t : State} (h : Returns n s t) (none : s.responses = []) :
    ResponsesOk t ∧ t.responses.length = n := by
  obtain ⟨new, ht, len, ok⟩ := h
  rw [none, List.nil_append] at ht
  rw [ResponsesOk, ht]
  exact ⟨ok, len⟩

/-- R131: a verdict has no more result bytes than its frame. -/
theorem verdictBytes_length_le (f : List Byte) : (verdictBytes f (unwrap f)).length ≤ f.length := by
  cases h : unwrap f with
  | ok p =>
    have := unwrap_ok_length h
    rw [verdictBytes]
    omega
  | framingError | checksumError => exact Nat.le_refl _

theorem Returns.respondVerdict {s u : State} (h : u.responses = s.responses) {f : List Byte}
    (short : f.length ≤ 8) : Returns 1 s (u.respondVerdict f) := by
  rw [respondVerdict_eq]
  exact .respond h _ ((verdictBytes_length_le f).trans short)

theorem receiveByte_returns {b : Byte} {s t : State} (h : receiveByte b s = .next t) :
    Returns 1 s t := by
  obtain ⟨bs, -, valid, rfl⟩ | ⟨bs, full, valid, rfl⟩ := receiveByte_next h
  · have := rxValid_length valid
    exact .respond rfl _ (by omega)
  · have := rxValid_length valid
    exact .respondVerdict rfl (by rw [List.length_append, List.length_singleton]; omega)

theorem receiveBytes_returns {bs : List Byte} {s t : State} (h : receiveBytes bs s = .next t) :
    Returns bs.length s t := by
  induction bs generalizing s with
  | nil =>
    cases h
    exact .none rfl
  | cons b bs ih =>
    obtain ⟨u, hb, hbs⟩ := andThen_eq_next h
    rw [List.length_cons, Nat.add_comm]
    exact (receiveByte_returns hb).trans (ih hbs)

/-- The number of responses of an instruction: one, or the eight of a received frame (log entry 6). -/
def responseCount : Instr → Nat
  | .rspMeasurementData _ | .rspHighSpeedData _ => 8
  | _ => 1

theorem responseCount_le (i : Instr) : responseCount i ≤ 8 := by
  unfold responseCount
  split <;> decide

theorem responseCount_decodeRequest (w : BitVec 68) : responseCount (decodeRequest w) = 1 := by
  unfold decodeRequest
  split <;> rfl

theorem exec_returns {i : Instr} {s t : State} (h : exec i s = .next t) :
    Returns (responseCount i) s t := by
  cases i with
  | nop | crcClear | crcUpdate | crcRead | encode
  | reserved9 | reservedA | reservedB | reservedC | reservedD | reservedE | reservedF
  | cmdGetDeviceInfo | cmdObtainTemperature | cmdSetMeasurementFrequency | cmdSetDataFormat
  | cmdStartMeasurement | cmdStopMeasurement | cmdSaveSettings | cmdGetSerialNumber
  | cmdSetMeasurementMode | cmdConfigureAddress | cmdSetBaudRate =>
    cases h
    exact .respond rfl _ (by simp [Payload.toList])
  | decode f =>
    cases h
    exact .respondVerdict rfl (Nat.le_refl 8)
  | rxByte b => exact receiveByte_returns h
  | rxTimeout | rxFlush =>
    obtain ⟨bs, -, count, hk⟩ := withRxValid_next h
    cases hk
    exact .respond rfl _ (by omega)
  | rspMeasurementData | rspHighSpeedData => exact receiveBytes_returns h

theorem takeInput_returns {x : Input} {s t : State} (h : takeInput x s = .next t) :
    ∃ n ≤ 8, Returns n s t := by
  obtain ⟨_, _, _, rfl⟩ | ⟨_, i, _, _, _, he⟩ | ⟨_, rfl⟩ | ⟨_, rfl⟩ := takeInput_next h
  · exact ⟨0, by decide, .none rfl⟩
  · exact ⟨responseCount i, responseCount_le i, exec_returns he⟩
  · exact ⟨0, by decide, .none rfl⟩
  · exact ⟨0, by decide, .none rfl⟩

/-- Settles O9: a step starts with no response, so its next state holds what its input returned. -/
theorem everyStepReturnsOnlyWellFormedResponses : Obligations.EveryStepReturnsOnlyWellFormedResponses := by
  intro s t h
  obtain ⟨-, rfl⟩ | ⟨x, rest, -, hx⟩ := takeNext_next h
  · exact ⟨nofun, Nat.zero_le 8⟩
  · obtain ⟨n, few, returns⟩ := takeInput_returns hx
    obtain ⟨ok, count⟩ := returns.responses rfl
    exact ⟨ok, count.trans_le few⟩

/-! ## Runs of requests (R61, R210, R218) -/

/-- The state with other inputs waiting. -/
def State.withInputs (s : State) (xs : List Input) : State := { s with inputs := xs }

/-- A meaning that neither reads nor changes the waiting inputs. -/
def IgnoresInputs (k : State → Result) : Prop :=
  ∀ (s : State) (xs : List Input), k (s.withInputs xs) = mapNext (·.withInputs xs) (k s)

theorem respondVerdict_withInputs (s : State) (xs : List Input) (f : List Byte) :
    (s.withInputs xs).respondVerdict f = (s.respondVerdict f).withInputs xs := by
  rw [respondVerdict_eq, respondVerdict_eq]
  rfl

theorem withRxValid_withInputs {s : State} {xs : List Input} {k l : List Byte → Result}
    (h : ∀ bs, k bs = mapNext (·.withInputs xs) (l bs)) :
    withRxValid (s.withInputs xs) k = mapNext (·.withInputs xs) (withRxValid s l) := by
  have same : (s.withInputs xs).rxValid = s.rxValid := rfl
  unfold withRxValid
  rw [same]
  cases s.rxValid with
  | none => rfl
  | some bs => exact h bs

theorem receiveByte_ignoresInputs (b : Byte) : IgnoresInputs (receiveByte b) := by
  intro s xs
  by_cases room : s.rxCount.val < 7
  · rw [receiveByte_of_room room, receiveByte_of_room (s := s.withInputs xs) room]
    exact withRxValid_withInputs (s := s.rxStore b) fun _ => rfl
  · rw [receiveByte_of_full room, receiveByte_of_full (s := s.withInputs xs) room]
    exact withRxValid_withInputs fun bs =>
      congrArg _ (respondVerdict_withInputs s.rxClear xs (bs ++ [b]))

theorem receiveBytes_ignoresInputs (bs : List Byte) : IgnoresInputs (receiveBytes bs) := by
  induction bs with
  | nil => exact fun _ _ => rfl
  | cons b bs ih =>
    intro s xs
    simp only [receiveBytes, receiveByte_ignoresInputs b s xs, mapNext, andThen_assoc, andThen_next]
    congr
    funext t
    exact ih t xs

theorem exec_ignoresInputs (i : Instr) : IgnoresInputs (exec i) := by
  intro s xs
  cases exec_meaning i with
  | answers f st reply _ _ run =>
    rw [run, run]
    rfl
  | receives bs _ run =>
    rw [run, run]
    exact receiveBytes_ignoresInputs bs s xs
  | drains st _ run =>
    rw [run, run]
    exact withRxValid_withInputs fun _ => rfl

theorem execAll_ignoresHistory (is : List Instr) : IgnoresHistory (execAll is) := by
  induction is with
  | nil => exact fun _ _ => rfl
  | cons i is ih => exact andThen_ignoresHistory (exec_ignoresHistory i) ih

/-- A request that the block accepts is answered by one response, and the invariant is kept. -/
theorem step_request {s : State} {w : BitVec 68} {rest : List Input} (inv : RxInv s)
    (waiting : s.inputs = .issue (.request w) :: rest) (released : s.inReset = false) :
    ∃ t r, exec (decodeRequest w) { s with inputs := rest, responses := [] } = .next t ∧
      step s = .next t ∧ RxInv t ∧ t.responses = [r] ∧ ResponseOk r := by
  obtain ⟨t, ht, invt⟩ :=
    exec_of_rxInv (s := { s with inputs := rest, responses := [] }) inv (decodeRequest w)
  obtain ⟨ok, count⟩ := (exec_returns ht).responses rfl
  rw [responseCount_decodeRequest] at count
  obtain ⟨r, hr⟩ := List.length_eq_one_iff.mp count
  have run := stepRunsTheDecodedInstruction s (.request w) rest _ waiting released rfl
  exact ⟨t, r, ht, run.trans ht, invt, hr, ok r (by simp [hr])⟩

/-- A run of requests observes one response to each, and those are the responses that their
instructions give one after the other. -/
theorem runSteps_requests {ws : List (BitVec 68)} {s : State} (inv : RxInv s)
    (waiting : s.inputs = ws.map fun v => .issue (.request v)) (released : s.inReset = false) :
    ∃ t, runSteps ws.length s = .next t ∧ (observed ws.length s).length = ws.length ∧
      execAll (ws.map decodeRequest) { s with inputs := [], responses := [] } =
        .next { t with responses := observed ws.length s } := by
  induction ws generalizing s with
  | nil =>
    refine ⟨s, rfl, rfl, ?_⟩
    rw [← show s.inputs = [] from waiting]
    rfl
  | cons w ws ih =>
    obtain ⟨u, r, hexec, hstep, invu, hr, -⟩ := step_request inv waiting released
    obtain ⟨inputs, inReset⟩ := exec_sameInputs hexec
    obtain ⟨t, hrun, hcount, hall⟩ := ih invu inputs (inReset.trans released)
    refine ⟨t, ?_, ?_, ?_⟩
    · simp [runSteps, hstep, hrun]
    · simp [observed_succ hstep, hr, hcount]
    · have first : exec (decodeRequest w) { s with inputs := [], responses := [] } =
          .next ({ u with inputs := [], responses := [] }.withHistory [r]) := by
        have h := exec_ignoresInputs (decodeRequest w)
          { s with inputs := ws.map fun v => .issue (.request v), responses := [] } []
        rw [hexec] at h
        refine h.trans ?_
        rw [mapNext, andThen_next, State.withInputs, State.withHistory, ← hr, List.append_nil]
      have rest := execAll_ignoresHistory (ws.map decodeRequest)
        { u with inputs := [], responses := [] } [r]
      have seen : observed (w :: ws).length s = [r] ++ observed ws.length u := by
        rw [List.length_cons, observed_succ hstep, hr]
      rw [List.map_cons, execAll, first, andThen_next, rest, hall, seen]
      rfl

/-- Settles O7: one request, one request that reset cuts off, and a run of requests. -/
theorem everyRequestGetsOneResponse : Obligations.EveryRequestGetsOneResponse := by
  refine fun s w rest inv => ⟨fun waiting released => ?_, fun waiting => ?_, fun ws waiting released =>
    runSteps_requests inv waiting released⟩
  · obtain ⟨t, r, -, run, -, hr, ok⟩ := step_request inv waiting released
    exact ⟨t, r, run, hr, ok⟩
  · exact ⟨_, step_input waiting, rfl⟩

end Sys2Proof.Machine
end

section
/-! PROOFS. The family of spec/40_crc.md: the step as a linear permutation (R104 to R106, R110), the CRC
as a remainder over GF(2) (R103), the source's vectors (R101), and the three streaming operations
(R107 to R109). -/

namespace Sys2Proof.Machine

/-! ## One iteration is linear and loses nothing (R100, R105) -/

/-- The iteration without its case split: the shift, and what is subtracted for bit 7. -/
theorem crcShift_eq (r : BitVec 8) :
    crcShift r = (r <<< 1) ^^^ if r.getLsbD 7 then crcPoly else 0#8 := by
  rw [crcShift]
  split
  · rfl
  · rw [BitVec.xor_zero]

theorem crcShift_xor (a b : BitVec 8) : crcShift (a ^^^ b) = crcShift a ^^^ crcShift b := by
  have subtracted (p q : Bool) : (if p ^^ q then crcPoly else 0#8) =
      (if p then crcPoly else 0#8) ^^^ if q then crcPoly else 0#8 := by
    cases p <;> cases q <;> rfl
  rw [crcShift_eq, crcShift_eq, crcShift_eq, BitVec.getLsbD_xor, subtracted,
    BitVec.shiftLeft_xor_distrib]
  ac_rfl

/-- `CRC_POLY` is odd, so bit 7 comes back as bit 0. -/
theorem getLsbD_crcShift_zero (r : BitVec 8) : (crcShift r).getLsbD 0 = r.getLsbD 7 := by
  rw [crcShift_eq, BitVec.getLsbD_xor]
  cases r.getLsbD 7 <;> simp [crcPoly]

theorem crcShift_eq_zero_iff (r : BitVec 8) : crcShift r = 0#8 ↔ r = 0#8 := by
  refine ⟨fun h => ?_, by rintro rfl; rfl⟩
  have top : r.getLsbD 7 = false := by rw [← getLsbD_crcShift_zero, h]; rfl
  have low : r <<< 1 = 0#8 := by rwa [crcShift, top, if_neg Bool.false_ne_true] at h
  have high : r.toNat < 128 := by
    have := r.isLt
    have bit : (r.toNat / 128) % 2 = 0 := by
      simpa [BitVec.getLsbD, Nat.testBit_eq_decide_div_mod_eq] using top
    omega
  bv_omega

theorem crcShifts_xor (n : Nat) (a b : BitVec 8) :
    crcShifts n (a ^^^ b) = crcShifts n a ^^^ crcShifts n b := by
  induction n generalizing a b with
  | zero => rfl
  | succ n ih => rw [crcShifts, crcShift_xor, ih, crcShifts, crcShifts]

theorem crcShifts_eq_zero_iff (n : Nat) (r : BitVec 8) : crcShifts n r = 0#8 ↔ r = 0#8 := by
  induction n generalizing r with
  | zero => rfl
  | succ n ih => rw [crcShifts, ih, crcShift_eq_zero_iff]

/-- A linear map with no zero but zero maps no two registers to one. -/
theorem crcShifts_injective (n : Nat) : Function.Injective (crcShifts n) := by
  intro a b h
  rw [← BitVec.xor_eq_zero_iff] at h ⊢
  rwa [← crcShifts_xor, crcShifts_eq_zero_iff] at h

/-! ## The step and its table (R104 to R106, R110) -/

/-- R104: the step depends on its arguments only through their exclusive or. -/
theorem crcStep_zero_xor (c b : Byte) : crcStep 0x00#8 (c ^^^ b) = crcStep c b := by
  rw [crcStep, crcStep, BitVec.zero_xor]

theorem crcStep_comm (c b : Byte) : crcStep c b = crcStep b c := by
  rw [crcStep, crcStep, BitVec.xor_comm]

theorem crcStep_eq_zero_iff (c b : Byte) : crcStep c b = 0x00#8 ↔ b = c := by
  rw [crcStep, crcShifts_eq_zero_iff, BitVec.xor_eq_zero_iff, eq_comm]

theorem crcStep_bijective (c : Byte) : Function.Bijective (crcStep c) :=
  Function.Injective.bijective_of_finite fun _ _ h =>
    (BitVec.xor_right_inj c).mp (crcShifts_injective 8 h)

theorem crc8_append_singleton (bs : List Byte) (b : Byte) :
    crc8 (bs ++ [b]) = crcStep (crc8 bs) b := crcFrom_append crcInit bs [b]

/-- Settles O22: the cell at an index is the step from zero, which is the step of any pair with that
exclusive or. -/
theorem crcTableGivesEveryStep : Obligations.CrcTableGivesEveryStep := by
  refine ⟨by rw [crcTable, List.length_map, List.length_range], fun c b => ?_⟩
  rw [crcTable, List.getElem?_map, List.getElem?_range (c ^^^ b).isLt, Option.map_some,
    BitVec.ofNat_toNat, BitVec.setWidth_eq, crcStep_zero_xor]

/-- Settles O23, from the eight iterations: they are linear, and zero only at zero. -/
theorem crcStepIsLinearAndBijective : Obligations.CrcStepIsLinearAndBijective := by
  refine ⟨fun a b => ?_, fun x => crcStep_eq_zero_iff 0x00#8 x, fun b => ?_, crcStep_bijective⟩
  · simp only [crcStep, BitVec.zero_xor, crcShifts_xor]
  · simp only [fun c => crcStep_comm c b]
    exact crcStep_bijective b

/-- Settles O24: the last step is zero exactly when its byte is the register's value. -/
theorem crcResidueIsZeroExactlyOnTheCrc : Obligations.CrcResidueIsZeroExactlyOnTheCrc := by
  intro bs x
  rw [crc8_append_singleton, crcStep_eq_zero_iff]

/-- Settles O25: a zero byte leaves a zero register at zero. -/
theorem leadingZerosDoNotChangeTheCrc : Obligations.LeadingZerosDoNotChangeTheCrc := by
  intro n bs
  induction n with
  | zero => rfl
  | succ n ih =>
    have still : crcStep crcInit 0x00#8 = crcInit := (crcStep_eq_zero_iff _ _).mpr rfl
    rw [List.replicate_succ, List.cons_append, crc8, crcFrom_cons, still]
    exact ih

/-- Settles O21: the fold, and the vectors by evaluation. -/
theorem crcOfSequences : Obligations.CrcOfSequences :=
  ⟨crc8_append_singleton, rfl, by decide +kernel, by decide +kernel, by decide +kernel,
    by decide +kernel⟩

/-! ## Bits as polynomials over GF(2) (R103) -/

section Polynomials
open Polynomial

/-- The polynomial whose coefficient of `x^i` is bit `i`, for the bits below `n`. -/
noncomputable def bitPoly (n : Nat) (bit : Nat → Bool) : (ZMod 2)[X] :=
  ∑ i ∈ Finset.range n, if bit i then X ^ i else 0

/-- `G(x)` of R103. -/
noncomputable def crcGenerator : (ZMod 2)[X] := X ^ 8 + X ^ 5 + X ^ 4 + 1

theorem crcGenerator_monic : crcGenerator.Monic := by
  unfold crcGenerator
  monicity!

theorem degree_crcGenerator : crcGenerator.degree = 8 := by
  unfold crcGenerator
  compute_degree!

theorem degree_bitPoly_lt (n : Nat) (bit : Nat → Bool) : (bitPoly n bit).degree < n := by
  rw [bitPoly, ← mem_degreeLT]
  refine Submodule.sum_mem _ fun i hi => ?_
  split
  · exact mem_degreeLT.mpr (by rw [degree_X_pow]; exact_mod_cast Finset.mem_range.mp hi)
  · exact Submodule.zero_mem _

theorem bitPoly_congr {n : Nat} {f g : Nat → Bool} (h : ∀ i < n, f i = g i) :
    bitPoly n f = bitPoly n g :=
  Finset.sum_congr rfl fun i hi => by rw [h i (Finset.mem_range.mp hi)]

/-- Addition over GF(2) is exclusive or. -/
theorem bitPoly_xor {w : Nat} (n : Nat) (a b : BitVec w) :
    bitPoly n (a ^^^ b).getLsbD = bitPoly n a.getLsbD + bitPoly n b.getLsbD := by
  rw [bitPoly, bitPoly, bitPoly, ← Finset.sum_add_distrib]
  refine Finset.sum_congr rfl fun i _ => ?_
  cases ha : a.getLsbD i <;> cases hb : b.getLsbD i <;> simp [ha, hb, CharTwo.add_self_eq_zero]

/-- The bits from `m` up stand above those below `m`. -/
theorem bitPoly_add (m n : Nat) (bit : Nat → Bool) :
    bitPoly (m + n) bit = bitPoly m bit + X ^ m * bitPoly n fun i => bit (m + i) := by
  simp only [bitPoly, Finset.sum_range_add, Finset.mul_sum, mul_ite, mul_zero, pow_add]

/-- Multiplying by `x` shifts left; bit 7 goes to `x^8`. -/
theorem X_mul_bitPoly (r : BitVec 8) :
    X * bitPoly 8 r.getLsbD =
      bitPoly 8 (r <<< 1).getLsbD + if r.getLsbD 7 then X ^ 8 else 0 := by
  have shifted : ∀ i < 7, (r <<< 1).getLsbD (1 + i) = r.getLsbD i := fun i hi => by
    simp [-BitVec.getLsbD_eq_getElem, BitVec.getLsbD_shiftLeft, show 1 + i < 8 by omega]
  have bitZero : bitPoly 1 (r <<< 1).getLsbD = 0 := by simp [bitPoly]
  have bitSeven : bitPoly 1 (fun i => r.getLsbD (7 + i)) = if r.getLsbD 7 then 1 else 0 := by
    simp [bitPoly]
  rw [bitPoly_add 7 1, bitPoly_add 1 7, bitPoly_congr shifted, bitZero, bitSeven]
  split <;> ring

theorem bitPoly_crcPoly : bitPoly 8 crcPoly.getLsbD = 1 + X ^ 4 + X ^ 5 := by
  simp [bitPoly, crcPoly, Finset.sum_range_succ]

/-- R100, R103: an iteration multiplies by `x` and subtracts `G` where the degree would reach 8. -/
theorem X_mul_bitPoly_eq_crcShift (r : BitVec 8) :
    X * bitPoly 8 r.getLsbD =
      bitPoly 8 (crcShift r).getLsbD + if r.getLsbD 7 then crcGenerator else 0 := by
  rw [X_mul_bitPoly, crcShift]
  cases r.getLsbD 7 with
  | false => rfl
  | true =>
    have generator : crcGenerator = bitPoly 8 crcPoly.getLsbD + X ^ 8 := by
      rw [bitPoly_crcPoly, crcGenerator]
      ring
    simp only [if_true, bitPoly_xor, generator]
    rw [add_assoc, CharTwo.add_cancel_left]

/-- The message polynomial of R103: the bits of the big-endian integer. -/
noncomputable def messagePoly (bs : List Byte) : (ZMod 2)[X] :=
  bitPoly (8 * bs.length) (be bs).testBit

theorem messagePoly_cons (b : Byte) (bs : List Byte) :
    messagePoly (b :: bs) = messagePoly bs + X ^ (8 * bs.length) * bitPoly 8 b.getLsbD := by
  have size : 256 ^ bs.length = 2 ^ (8 * bs.length) := by rw [Nat.pow_mul]
  have below : be bs < 2 ^ (8 * bs.length) := size ▸ be_lt bs
  have bits (i : Nat) : (be (b :: bs)).testBit i =
      if i < 8 * bs.length then (be bs).testBit i else b.toNat.testBit (i - 8 * bs.length) := by
    rw [be, size, Nat.mul_comm, Nat.testBit_two_pow_mul_add _ below]
  have low : ∀ i < 8 * bs.length, (be (b :: bs)).testBit i = (be bs).testBit i := fun i hi => by
    rw [bits, if_pos hi]
  have high : ∀ i < 8, (be (b :: bs)).testBit (8 * bs.length + i) = b.getLsbD i := fun i _ => by
    rw [bits, if_neg (by omega), Nat.add_sub_cancel_left]
    rfl
  rw [messagePoly, List.length_cons, Nat.mul_succ, bitPoly_add, bitPoly_congr low, bitPoly_congr high,
    messagePoly]

/-! ## The CRC modulo `G` (R103) -/

/-- The residue class modulo `G`. -/
noncomputable def modGenerator : (ZMod 2)[X] →+* AdjoinRoot crcGenerator :=
  AdjoinRoot.mk crcGenerator

theorem modGenerator_crcShift (r : BitVec 8) :
    modGenerator (bitPoly 8 (crcShift r).getLsbD) = modGenerator (X * bitPoly 8 r.getLsbD) := by
  have vanishes : modGenerator (if r.getLsbD 7 then crcGenerator else 0) = 0 := by
    split
    · exact AdjoinRoot.mk_self
    · exact map_zero modGenerator
  rw [X_mul_bitPoly_eq_crcShift, map_add, vanishes, add_zero]

theorem modGenerator_crcShifts (n : Nat) (r : BitVec 8) :
    modGenerator (bitPoly 8 (crcShifts n r).getLsbD) = modGenerator (X ^ n * bitPoly 8 r.getLsbD) := by
  induction n generalizing r with
  | zero => rw [crcShifts, pow_zero, one_mul]
  | succ n ih => rw [crcShifts, ih, map_mul, modGenerator_crcShift, ← map_mul, pow_succ, mul_assoc]

theorem modGenerator_crcStep (c b : Byte) :
    modGenerator (bitPoly 8 (crcStep c b).getLsbD) =
      modGenerator (X ^ 8 * (bitPoly 8 c.getLsbD + bitPoly 8 b.getLsbD)) := by
  rw [crcStep, modGenerator_crcShifts, bitPoly_xor]

/-- R101, R103: the fold from any register value, which stands above the bits of the message. -/
theorem modGenerator_crcFrom (c : Byte) (bs : List Byte) :
    modGenerator (bitPoly 8 (crcFrom c bs).getLsbD) =
      modGenerator (bitPoly 8 c.getLsbD * X ^ (8 * bs.length) + messagePoly bs * X ^ 8) := by
  induction bs generalizing c with
  | nil =>
    have nothing : messagePoly [] = 0 := rfl
    rw [crcFrom_nil, nothing, List.length_nil, Nat.mul_zero, pow_zero, mul_one, zero_mul, add_zero]
  | cons b bs ih =>
    rw [crcFrom_cons, ih, messagePoly_cons, List.length_cons, map_add, map_mul, modGenerator_crcStep,
      ← map_mul, ← map_add]
    exact congrArg modGenerator (by ring)

/-- Settles O26: the CRC is congruent to the shifted message, and its degree is below that of `G`. -/
theorem crcIsThePolynomialRemainder : Obligations.CrcIsThePolynomialRemainder := by
  intro bs
  change bitPoly 8 (crc8 bs).getLsbD = (messagePoly bs * X ^ 8) %ₘ crcGenerator
  have initZero : bitPoly 8 crcInit.getLsbD = 0 := by simp [bitPoly, crcInit]
  have congruent :
      modGenerator (bitPoly 8 (crc8 bs).getLsbD) = modGenerator (messagePoly bs * X ^ 8) := by
    rw [crc8, modGenerator_crcFrom, initZero, zero_mul, zero_add]
  have reduced : (bitPoly 8 (crc8 bs).getLsbD).degree < crcGenerator.degree := by
    rw [degree_crcGenerator]
    exact degree_bitPoly_lt 8 _
  calc bitPoly 8 (crc8 bs).getLsbD = bitPoly 8 (crc8 bs).getLsbD %ₘ crcGenerator :=
        ((modByMonic_eq_self_iff crcGenerator_monic).mpr reduced).symm
    _ = (messagePoly bs * X ^ 8) %ₘ crcGenerator :=
        modByMonic_eq_of_dvd_sub crcGenerator_monic (AdjoinRoot.mk_eq_mk.mp congruent)

end Polynomials

/-! ## The streaming operations (R107 to R109) -/

theorem exec_crcClear (s : State) : exec .crcClear s =
    .next { s with crcReg := crcInit, responses := s.responses ++ [crcReply crcInit] } := rfl

theorem exec_crcUpdate (d : Byte) (s : State) : exec (.crcUpdate d) s =
    .next { s with
      crcReg := crcStep s.crcReg d, responses := s.responses ++ [crcReply (crcStep s.crcReg d)] } := rfl

theorem exec_crcRead (s : State) : exec .crcRead s =
    .next { s with responses := s.responses ++ [crcReply s.crcReg] } := rfl

theorem decodeRequest_crcClear (x : Data) : decodeRequest (0x1#4 ++ x) = .crcClear := by
  rw [decodeRequest, requestOp_append]
  rfl

theorem decodeRequest_crcRead (x : Data) : decodeRequest (0x3#4 ++ x) = .crcRead := by
  rw [decodeRequest, requestOp_append]
  rfl

/-- Settles O27: every word with code 1 is CRC_CLEAR, which replies with the initial value. -/
theorem crcClearResult : Obligations.CrcClearResult := by
  refine fun s x => ⟨decodeRequest_crcClear x, ?_⟩
  rw [exec_crcClear, crcReply_eq]
  rfl

/-- Settles O28: the byte is read below any junk bits, and the reply carries the new register. -/
theorem crcUpdateResult : Obligations.CrcUpdateResult := by
  refine fun s d j => ⟨decodeRequest_crcUpdate j d, ?_⟩
  rw [exec_crcUpdate, crcReply_eq]

/-- Settles O29: every word with code 3 is CRC_READ, which replies with the register as it is. -/
theorem crcReadResult : Obligations.CrcReadResult := by
  refine fun s x => ⟨decodeRequest_crcRead x, ?_⟩
  rw [exec_crcRead, crcReply_eq]

end Sys2Proof.Machine
end

section
/-! PROOFS. The family of spec/41_encoder.md: the framed form of a payload (R120, R123), ENCODE (R121),
and that interleaving changes neither the CRC unit nor the deframer (R122, R144). -/

namespace Sys2Proof.Machine

/-! ## Framed payloads (R120, R123) -/

theorem wrap_head? (p : List Byte) : (wrap p).head? = some sof := rfl

theorem wrap_getElem?_payload {p : List Byte} {i : Nat} (h : i < p.length) :
    (wrap p)[1 + i]? = p[i]? := by
  simp [wrap, Nat.add_comm 1 i, List.getElem?_append_left h]

theorem wrap_getElem?_crc (p : List Byte) : (wrap p)[p.length + 1]? = some (crc8 p) := by
  simp [wrap]

theorem wrap_getElem?_eof (p : List Byte) : (wrap p)[p.length + 2]? = some eof := by
  simp [wrap]

theorem wrap_getLast? (p : List Byte) : (wrap p).getLast? = some eof := by
  rw [List.getLast?_eq_getElem?, wrap_length]
  exact wrap_getElem?_eof p

theorem slice_wrap (p : List Byte) : slice (wrap p) 1 p.length = p := by
  simp [slice, wrap]

/-- R123: the delimiters and the CRC byte pass the three checks of `unwrap`, which leave the payload. -/
theorem unwrap_wrap (p : List Byte) : unwrap (wrap p) = .ok p := by
  have long : ¬ p.length + 3 < 3 := by omega
  have first : (wrap p)[0]? = some sof := rfl
  have last : (wrap p)[p.length + 3 - 1]? = some eof := wrap_getElem?_eof p
  have crc : (wrap p)[p.length + 3 - 2]? = some (crc8 p) := wrap_getElem?_crc p
  simp only [unwrap, wrap_length, long, first, last, crc, Nat.add_sub_cancel, slice_wrap, ne_eq,
    not_true_eq_false, or_self, if_false]

/-- Settles O33, property by property. -/
theorem wrapProperties : Obligations.WrapProperties :=
  ⟨fun p => ⟨wrap_length p, wrap_head? p, wrap_getLast? p, fun _ => wrap_getElem?_payload,
    wrap_getElem?_crc p, unwrap_wrap p⟩, fun p => wrap_length p.toList⟩

/-! ## ENCODE (R121) -/

/-- The frame of a five-byte payload. -/
def frameOf (p : Payload) : Frame :=
  { f0 := sof, f1 := p.p0, f2 := p.p1, f3 := p.p2, f4 := p.p3, f5 := p.p4, f6 := crc8 p.toList,
    f7 := eof }

theorem frameOf_toList (p : Payload) : (frameOf p).toList = wrap p.toList := rfl

theorem dataOfFrame_frameOf (p : Payload) : dataOfFrame (frameOf p) = framedData p := rfl

theorem pack_wrap (p : Payload) : pack (wrap p.toList) = framedData p := by
  rw [← frameOf_toList, pack_frame, dataOfFrame_frameOf]

theorem exec_encode (p : Payload) (s : State) :
    exec (.encode p) s =
      .next { s with responses := s.responses ++ [mkResponse .ok (wrap p.toList)] } := rfl

/-- Settles O32: the payload is read below any junk bits, and its frame is packed into the response. -/
theorem encodeResult : Obligations.EncodeResult := by
  refine fun s p j => ⟨decodeRequest_encode j p, ?_⟩
  rw [exec_encode, mkResponse, pack_wrap]
  rfl

/-! ## A unit and the instructions that write it (R122, R144) -/

/-- A run that reached `u` has kept up with one that reached `s`: both have the same `unit`, and the
responses of the first are among those of the second, in order. -/
structure Tracks {α : Type} (unit : State → α) (u s : State) : Prop where
  unit_eq : unit u = unit s
  responses : u.responses.Sublist s.responses

/-- A unit is owned by the selected instructions when no other writes it, and they depend on nothing
else: run in both of two runs, they keep the one tracking the other. -/
structure Owns {α : Type} (select : Instr → Bool) (unit : State → α) : Prop where
  frame {i : Instr} {s t : State} : select i = false → exec i s = .next t → unit t = unit s
  run {i : Instr} {u s t : State} : select i = true → Tracks unit u s → exec i s = .next t →
    ∃ v, exec i u = .next v ∧ Tracks unit v t

section Unit
variable {α : Type} {select : Instr → Bool} {unit : State → α}

theorem Tracks.refl (s : State) : Tracks unit s s := ⟨rfl, .refl _⟩

theorem exec_responses_sublist {i : Instr} {s t : State} (h : exec i s = .next t) :
    s.responses.Sublist t.responses := by
  obtain ⟨new, ht, -, -⟩ := exec_returns h
  rw [ht]
  exact List.sublist_append_left _ _

/-- An instruction that is not selected runs in the tracked run alone. -/
theorem Owns.skip (own : Owns select unit) {i : Instr} {u s t : State} (hi : select i = false)
    (tracks : Tracks unit u s) (h : exec i s = .next t) : Tracks unit u t :=
  ⟨tracks.unit_eq.trans (own.frame hi h).symm, tracks.responses.trans (exec_responses_sublist h)⟩

/-- The selected instructions alone keep tracking the whole list. -/
theorem Owns.execAll_filter (own : Owns select unit) {is : List Instr} {u s t : State}
    (tracks : Tracks unit u s) (h : execAll is s = .next t) :
    ∃ v, execAll (is.filter select) u = .next v ∧ Tracks unit v t := by
  induction is generalizing u s with
  | nil =>
    cases h
    exact ⟨u, rfl, tracks⟩
  | cons i is ih =>
    obtain ⟨s', hs', hrest⟩ := andThen_eq_next h
    cases hi : select i with
    | false =>
      rw [List.filter_cons_of_neg (by simp [hi])]
      exact ih (own.skip hi tracks hs') hrest
    | true =>
      obtain ⟨u', hu', tracks'⟩ := own.run hi tracks hs'
      rw [List.filter_cons_of_pos hi, execAll, hu', andThen_next]
      exact ih tracks' hrest

end Unit

/-! ## The CRC unit (R20, R144) -/

theorem eq_of_writesCrc {i : Instr} (h : writesCrc i = true) :
    i = .crcClear ∨ ∃ d, i = .crcUpdate d := by
  unfold writesCrc at h
  split at h
  · exact .inl rfl
  · exact .inr ⟨_, rfl⟩
  · cases h

/-- CRC_CLEAR and CRC_UPDATE own `crc_reg`. -/
theorem owns_crcReg : Owns writesCrc State.crcReg where
  frame hi h := exec_crcReg_of_not_writesCrc h hi
  run {i u s t} hi tracks h := by
    obtain rfl | ⟨d, rfl⟩ := eq_of_writesCrc hi
    · rw [exec_crcClear] at h
      cases h
      exact ⟨_, exec_crcClear u, rfl, tracks.responses.append_right _⟩
    · rw [exec_crcUpdate, ← tracks.unit_eq] at h
      cases h
      exact ⟨_, exec_crcUpdate d u, rfl, tracks.responses.append_right _⟩

/-! ## The deframer (R20, R144) -/

/-- The deframer's state: `rx_buf` and `rx_count`. -/
def accumulator (s : State) : Vector (Option Byte) 8 × Fin 8 := (s.rxBuf, s.rxCount)

theorem accumulator_eq_iff {s t : State} :
    accumulator s = accumulator t ↔ s.rxBuf = t.rxBuf ∧ s.rxCount = t.rxCount :=
  Prod.mk_inj

section Accumulator
variable {u s t : State}

theorem rxValid_congr (h : accumulator u = accumulator s) : u.rxValid = s.rxValid := by
  obtain ⟨buf, count⟩ := accumulator_eq_iff.mp h
  rw [State.rxValid, State.rxValid, buf, count]

theorem withRxValid_of_rxValid {bs : List Byte} (h : s.rxValid = some bs) (k : List Byte → Result) :
    withRxValid s k = k bs := by
  rw [withRxValid, h]

theorem Tracks.respond (tracks : Tracks accumulator u s) (st : Status) (bs : List Byte) :
    Tracks accumulator (u.respond st bs) (s.respond st bs) :=
  ⟨tracks.unit_eq, tracks.responses.append_right _⟩

theorem Tracks.rxStore (tracks : Tracks accumulator u s) (b : Byte) :
    Tracks accumulator (u.rxStore b) (s.rxStore b) := by
  obtain ⟨buf, count⟩ := accumulator_eq_iff.mp tracks.unit_eq
  refine ⟨accumulator_eq_iff.mpr ⟨?_, ?_⟩, tracks.responses⟩
  · simp only [rxStore_rxBuf, buf, count]
  · simp only [rxStore_rxCount, count]

theorem Tracks.rxClear (tracks : Tracks accumulator u s) :
    Tracks accumulator u.rxClear s.rxClear :=
  ⟨rfl, tracks.responses⟩

theorem Tracks.receiveByte (tracks : Tracks accumulator u s) {b : Byte}
    (h : receiveByte b s = .next t) :
    ∃ v, Machine.receiveByte b u = .next v ∧ Tracks accumulator v t := by
  obtain ⟨-, count⟩ := accumulator_eq_iff.mp tracks.unit_eq
  obtain ⟨bs, room, valid, rfl⟩ | ⟨bs, full, valid, rfl⟩ := receiveByte_next h
  · have stored := tracks.rxStore b
    refine ⟨_, ?_, stored.respond .pending bs⟩
    rw [receiveByte_of_room (count ▸ room),
      withRxValid_of_rxValid ((rxValid_congr stored.unit_eq).trans valid)]
  · refine ⟨u.rxClear.respondVerdict (bs ++ [b]), ?_, ?_⟩
    · rw [receiveByte_of_full (by omega),
        withRxValid_of_rxValid ((rxValid_congr tracks.unit_eq).trans valid)]
    · rw [respondVerdict_eq, respondVerdict_eq]
      exact tracks.rxClear.respond _ _

theorem Tracks.receiveBytes (tracks : Tracks accumulator u s) {bs : List Byte}
    (h : receiveBytes bs s = .next t) :
    ∃ v, Machine.receiveBytes bs u = .next v ∧ Tracks accumulator v t := by
  induction bs generalizing u s with
  | nil =>
    cases h
    exact ⟨u, rfl, tracks⟩
  | cons b bs ih =>
    obtain ⟨s', hb, hbs⟩ := andThen_eq_next h
    obtain ⟨u', hu', tracks'⟩ := tracks.receiveByte hb
    rw [Machine.receiveBytes, hu', andThen_next]
    exact ih tracks' hbs

end Accumulator

/-- The receiving instructions own the accumulator. -/
theorem owns_accumulator : Owns writesAccumulator accumulator where
  frame {i s t} hi h := accumulator_eq_iff.mpr (onlyTheDeframerWritesTheAccumulator i s t h hi)
  run {i u s t} hi tracks h := by
    cases exec_meaning i with
    | answers _ _ _ noRx _ _ => cases noRx.symm.trans hi
    | receives bs _ run =>
      rw [run] at h ⊢
      exact tracks.receiveBytes h
    | drains st _ run =>
      obtain ⟨bs, valid, -, hk⟩ := withRxValid_next ((run s).symm.trans h)
      cases hk
      refine ⟨_, ?_, tracks.rxClear.respond st bs⟩
      rw [run, withRxValid_of_rxValid ((rxValid_congr tracks.unit_eq).trans valid)]

/-! ## Interleavings (R122, R144) -/

/-- Under the invariant no list of instructions stops. -/
theorem execAll_of_rxInv {s : State} (h : RxInv s) (is : List Instr) :
    ∃ t, execAll is s = .next t ∧ RxInv t := by
  induction is generalizing s with
  | nil => exact ⟨s, rfl, h⟩
  | cons i is ih =>
    obtain ⟨u, hu, hinv⟩ := exec_of_rxInv h i
    rw [execAll, hu, andThen_next]
    exact ih hinv

/-- Settles O49: the whole run answers, and the run of each unit's own instructions tracks it. -/
theorem interleavingChangesNeitherUnit : Obligations.InterleavingChangesNeitherUnit := by
  intro is s inv
  obtain ⟨t, ht, -⟩ := execAll_of_rxInv inv is
  obtain ⟨u, hu, crc⟩ := owns_crcReg.execAll_filter (.refl s) ht
  obtain ⟨v, hv, rx⟩ := owns_accumulator.execAll_filter (.refl s) ht
  obtain ⟨buf, count⟩ := accumulator_eq_iff.mp rx.unit_eq
  exact ⟨t, u, v, ht, hu, hv, crc.unit_eq.symm, buf.symm, count.symm, crc.responses, rx.responses⟩

end Sys2Proof.Machine
end

section
/-! PROOFS. The family of spec/42_decoder.md: the verdicts of `unwrap` (R130), that it accepts exactly
the framed payloads (R132), DECODE (R131), and that one changed byte is detected (R134). -/

namespace Sys2Proof.Machine

/-! ## The verdicts (R130) -/

theorem unwrap_of_short {f : List Byte} (short : f.length < 3) : unwrap f = .framingError := by
  simp only [unwrap, short, if_true]

/-- A frame with room for both delimiters and a CRC byte has them around an interior. -/
theorem exists_interior {f : List Byte} (long : 3 ≤ f.length) :
    ∃ (a : Byte) (m : List Byte) (c z : Byte), f = a :: (m ++ [c, z]) := by
  obtain ⟨a, f, rfl⟩ := List.exists_cons_of_length_pos (show 0 < f.length by omega)
  rw [List.length_cons] at long
  obtain rfl | ⟨f, z, rfl⟩ := f.eq_nil_or_concat'
  · rw [List.length_nil] at long
    omega
  obtain rfl | ⟨m, c, rfl⟩ := f.eq_nil_or_concat'
  · rw [List.length_append, List.length_nil, List.length_singleton] at long
    omega
  exact ⟨a, m, c, z, by rw [List.append_assoc]; rfl⟩

/-- R130 on a frame given by its delimiters, its interior and its CRC byte. -/
theorem unwrap_interior (a : Byte) (m : List Byte) (c z : Byte) :
    unwrap (a :: (m ++ [c, z])) =
      if a = sof ∧ z = eof then if crc8 m = c then .ok m else .checksumError else .framingError := by
  have length : (a :: (m ++ [c, z])).length = m.length + 3 := by simp
  have last : (a :: (m ++ [c, z]))[m.length + 3 - 1]? = some z := by simp
  have crc : (a :: (m ++ [c, z]))[m.length + 3 - 2]? = some c := by simp
  have interior : slice (a :: (m ++ [c, z])) 1 (m.length + 3 - 3) = m := by simp [slice]
  have long : ¬ m.length + 3 < 3 := by omega
  simp only [unwrap, length, last, crc, interior, long, if_false, List.getElem?_cons_zero, ne_eq,
    Option.some.injEq, ite_not, ← not_and_or]

/-- Settles O34: a frame is too short, or its delimiters, interior and CRC byte give its verdict. -/
theorem unwrapVerdicts : Obligations.UnwrapVerdicts := by
  intro f
  by_cases long : 3 ≤ f.length
  · obtain ⟨a, m, c, z, rfl⟩ := exists_interior long
    have ends : a :: (m ++ [c, z]) = a :: m ++ [c] ++ [z] := by simp
    have start : (a :: m ++ [c] ++ [z]).head? = some a := rfl
    rw [unwrap_interior, ends, start, List.dropLast_concat, List.dropLast_concat, List.getLast?_concat,
      List.getLast?_concat, List.tail_cons, ← ends]
    change (_ ↔ _ ∨ some a ≠ some sof ∨ some z ≠ some eof) ∧
      (_ ↔ _ ∧ some a = some sof ∧ some z = some eof ∧ _) ∧
      ∀ p, _ ↔ _ ∧ some a = some sof ∧ some z = some eof ∧ _
    simp only [long, Nat.not_lt.mpr long, Option.some.injEq, ne_eq, true_and, false_or,
      ← not_and_or, ← and_assoc]
    by_cases delimiters : a = sof ∧ z = eof
    · by_cases crc : crc8 m = c
      · simp [delimiters, crc, eq_comm]
      · simp [delimiters, crc, Ne.symm crc]
    · simp [delimiters]
  · rw [unwrap_of_short (by omega)]
    simp [long, Nat.lt_of_not_le long]

/-- Settles O35: the checks that an accepted frame passes fix every byte of it. -/
theorem unwrapAcceptsExactlyFramedPayloads : Obligations.UnwrapAcceptsExactlyFramedPayloads := by
  refine fun f p => ⟨fun accepted => ?_, fun framed => framed ▸ unwrap_wrap p⟩
  have long : 3 ≤ f.length := by
    rw [unwrap_ok_length accepted]
    omega
  obtain ⟨a, m, c, z, rfl⟩ := exists_interior long
  rw [unwrap_interior] at accepted
  split at accepted
  next delimiters =>
    split at accepted
    next crc =>
      obtain ⟨rfl, rfl⟩ := delimiters
      cases accepted
      rw [← crc]
      rfl
    next => cases accepted
  next => cases accepted

/-! ## DECODE (R131) -/

/-- R191: an answer that carries a whole frame. -/
theorem mkResponse_frame (st : Status) (f : Frame) :
    mkResponse st f.toList = ⟨statusCode st, 8#4, dataOfFrame f⟩ := by
  rw [mkResponse, pack_frame]
  rfl

/-- The response by its own three conditions is the response to the verdict. -/
theorem frameResponse_eq (f : Frame) :
    frameResponse f =
      mkResponse (verdictStatus (unwrap f.toList)) (verdictBytes f.toList (unwrap f.toList)) := by
  have verdict := unwrap_interior f.f0 [f.f1, f.f2, f.f3, f.f4, f.f5] f.f6 f.f7
  rw [show f.toList = f.f0 :: ([f.f1, f.f2, f.f3, f.f4, f.f5] ++ [f.f6, f.f7]) from rfl, verdict,
    frameResponse]
  change (if f.f0 = sof ∧ f.f7 = eof then _ else _) = _
  split
  · split
    · exact congrArg (Response.mk _ _) (pack_payload ⟨f.f1, f.f2, f.f3, f.f4, f.f5⟩).symm
    · exact (mkResponse_frame .checksumError f).symm
  · exact (mkResponse_frame .framingError f).symm

theorem exec_decode (f : Frame) (s : State) :
    exec (.decode f) s = .next { s with responses := s.responses ++ [frameResponse f] } := by
  rw [frameResponse_eq]
  exact congrArg _ (respondVerdict_eq s f.toList)

/-- Settles O36: the frame is read from its eight lanes, and the response is that of its verdict. -/
theorem decodeResult : Obligations.DecodeResult :=
  fun s f => ⟨decodeRequest_decode f, exec_decode f s⟩

/-! ## DECODE and ENCODE (R132) -/

theorem frameResponse_of_ok {f : Frame} {p : List Byte} (h : unwrap f.toList = .ok p) :
    frameResponse f = mkResponse .ok p := by
  rw [frameResponse_eq, h]
  rfl

/-- R190: no other status has the code of `OK`. -/
theorem eq_ok_of_statusCode {st : Status} (h : statusCode st = 0x0#4) : st = .ok := by
  cases st with
  | ok => rfl
  | framingError | checksumError | frameTimeout | pending | flushed | illegalOp =>
    exact absurd h (by decide)

theorem unwrap_of_status_ok {f : Frame} (h : (frameResponse f).status = 0x0#4) :
    ∃ p, unwrap f.toList = .ok p ∧ p.length = 5 := by
  rw [frameResponse_eq] at h
  have accepted : verdictStatus (unwrap f.toList) = .ok := eq_ok_of_statusCode h
  cases verdict : unwrap f.toList with
  | ok p => exact ⟨p, rfl, Nat.add_right_cancel (unwrap_ok_length verdict).symm⟩
  | framingError | checksumError =>
    rw [verdict] at accepted
    cases accepted

/-- Five packed bytes are read back as the payload that they are. -/
theorem responsePayload_eq_some_iff {bs : List Byte} (five : bs.length = 5) (p : Payload) :
    responsePayload (mkResponse .ok bs) = some p ↔ bs = p.toList := by
  have carried : (operandPayload (pack bs)).toList = bs := by
    rw [operandPayload_toList, ← five]
    exact unpackUndoesPack bs (by omega)
  have ok : (mkResponse .ok bs).status = statusCode .ok ∧ (mkResponse .ok bs).len = 5#4 :=
    ⟨rfl, by rw [mkResponse, five]⟩
  rw [responsePayload, if_pos ok, Option.some.injEq, ← payload_toList_injective.eq_iff]
  change (operandPayload (pack bs)).toList = p.toList ↔ _
  rw [carried]

theorem frameResponse_ok_iff (f : Frame) (p : Payload) :
    (frameResponse f).status = 0x0#4 ∧ responsePayload (frameResponse f) = some p ↔
      f = frameOf p := by
  rw [← frame_toList_injective.eq_iff, frameOf_toList,
    ← unwrapAcceptsExactlyFramedPayloads f.toList p.toList]
  constructor
  · rintro ⟨accepted, carried⟩
    obtain ⟨q, verdict, five⟩ := unwrap_of_status_ok accepted
    rw [frameResponse_of_ok verdict, responsePayload_eq_some_iff five] at carried
    rw [verdict, carried]
  · intro verdict
    rw [frameResponse_of_ok verdict]
    exact ⟨rfl, (responsePayload_eq_some_iff rfl p).mpr rfl⟩

/-- R64: the lanes of a frame keep all of its bytes. -/
theorem dataOfFrame_injective : Function.Injective dataOfFrame :=
  Function.LeftInverse.injective operandFrame_dataOfFrame

theorem exec_encode_eq_frame_iff (f : Frame) (p : Payload) (s : State) :
    exec (.encode p) s = .next { s with responses := s.responses ++ [⟨0x0#4, 8#4, dataOfFrame f⟩] } ↔
      f = frameOf p := by
  rw [exec_encode, ← frameOf_toList, mkResponse_frame]
  simp [statusCode, dataOfFrame_injective.eq_iff, eq_comm]

/-- Settles O37: both sides say that the frame is the payload framed. -/
theorem decodeAcceptsExactlyWhatEncodeProduces : Obligations.DecodeAcceptsExactlyWhatEncodeProduces :=
  fun f s => ⟨frameResponse f, exec_decode f s, fun p =>
    (frameResponse_ok_iff f p).trans (exec_encode_eq_frame_iff f p s).symm⟩

/-! ## One changed byte (R134) -/

/-- R105: the remaining bytes of a sequence lose nothing of the register. -/
theorem crcFrom_injective (bs : List Byte) : Function.Injective (crcFrom · bs) := by
  obtain ⟨-, -, bijective, -⟩ := crcStepIsLinearAndBijective
  induction bs with
  | nil => exact fun _ _ h => h
  | cons b bs ih => exact fun _ _ h => (bijective b).injective (ih h)

/-- A changed byte changes the CRC: its own step differs, and no later step loses the difference. -/
theorem crcFrom_set_ne {bs : List Byte} {i : Nat} {v : Byte} (c : Byte) (inside : i < bs.length)
    (changed : bs[i]? ≠ some v) : crcFrom c (bs.set i v) ≠ crcFrom c bs := by
  induction bs generalizing c i with
  | nil => exact absurd inside (Nat.not_lt_zero i)
  | cons b bs ih =>
    cases i with
    | zero =>
      intro same
      have : v = b := (crcStep_bijective c).injective (crcFrom_injective bs same)
      exact changed (congrArg some this.symm)
    | succ i => exact ih (crcStep c b) (Nat.lt_of_succ_lt_succ inside) changed

/-- R134 for a framed payload of any length: a changed delimiter is a framing error, a changed payload
or CRC byte a checksum error. -/
theorem unwrap_wrap_set {p : List Byte} {i : Nat} {v : Byte} (inside : i < p.length + 3)
    (changed : (wrap p)[i]? ≠ some v) :
    unwrap ((wrap p).set i v) =
      if i = 0 ∨ i = p.length + 2 then .framingError else .checksumError := by
  obtain rfl | rfl | rfl | ⟨k, rfl, hk⟩ : i = 0 ∨ i = p.length + 2 ∨ i = p.length + 1 ∨
      ∃ k, i = 1 + k ∧ k < p.length := by
    by_cases payload : 1 ≤ i ∧ i < p.length + 1
    · exact .inr (.inr (.inr ⟨i - 1, by omega, by omega⟩))
    · omega
  · have start : v ≠ sof := fun h => changed (h ▸ rfl)
    have frame : (wrap p).set 0 v = v :: (p ++ [crc8 p, eof]) := rfl
    simp [frame, unwrap_interior, start]
  · have stop : v ≠ eof := fun h => changed (h ▸ wrap_getElem?_eof p)
    have frame : (wrap p).set (p.length + 2) v = sof :: (p ++ [crc8 p, v]) := by simp [wrap]
    simp [frame, unwrap_interior, stop]
  · have crc : crc8 p ≠ v := fun h => changed (h ▸ wrap_getElem?_crc p)
    have frame : (wrap p).set (p.length + 1) v = sof :: (p ++ [v, eof]) := by simp [wrap]
    simp [frame, unwrap_interior, crc]
  · rw [wrap_getElem?_payload hk] at changed
    have crc : crc8 (p.set k v) ≠ crc8 p := crcFrom_set_ne crcInit hk changed
    have frame : (wrap p).set (1 + k) v = sof :: (p.set k v ++ [crc8 p, eof]) := by
      simp [wrap, Nat.add_comm 1 k, List.set_append_left, hk]
    have inner : ¬ (1 + k = 0 ∨ 1 + k = p.length + 2) := by omega
    simp only [frame, unwrap_interior, crc, inner, and_self, if_true, if_false]

/-- Settles O38: an accepted frame is a framed payload, and the position of the changed byte gives the
verdict. -/
theorem oneChangedByteIsDetected : Obligations.OneChangedByteIsDetected := by
  intro f g i v s accepted changed hg
  obtain ⟨p, verdict, five⟩ := unwrap_of_status_ok accepted
  rw [(unwrapAcceptsExactlyFramedPayloads f.toList p).mp verdict] at changed hg
  have detected := unwrap_wrap_set (by omega) changed
  rw [← hg, five] at detected
  have position : (i = 0 ∨ i = 7) ↔ (i.val = 0 ∨ i.val = 5 + 2) := by omega
  have response : frameResponse g =
      ⟨if i = 0 ∨ i = 7 then 0x1#4 else 0x2#4, 8#4, dataOfFrame g⟩ := by
    rw [frameResponse_eq, detected]
    by_cases delimiter : i.val = 0 ∨ i.val = 5 + 2
    · rw [if_pos delimiter, if_pos (position.mpr delimiter)]
      exact mkResponse_frame .framingError g
    · rw [if_neg delimiter, if_neg (position.not.mpr delimiter)]
      exact mkResponse_frame .checksumError g
  rw [exec_decode, response]

end Sys2Proof.Machine
end

section
/-! PROOFS. The family of spec/43_deframer.md: RX_BYTE, RX_TIMEOUT and RX_FLUSH (R140, R142, R143),
whole frames, streams and timeouts (R141, R145 to R147), and that the deframer and the other units share
no state (R144). -/

namespace Sys2Proof.Machine

/-! ## The operations (R140, R142, R143) -/

theorem decodeRequest_rxTimeout (x : Data) : decodeRequest (0x7#4 ++ x) = .rxTimeout := by
  rw [decodeRequest, requestOp_append]
  rfl

theorem decodeRequest_rxFlush (x : Data) : decodeRequest (0x8#4 ++ x) = .rxFlush := by
  rw [decodeRequest, requestOp_append]
  rfl

theorem Holds.exec_rxTimeout {s : State} {bs : List Byte} (h : Holds s bs) :
    exec .rxTimeout s = .next (s.rxClear.respond .frameTimeout bs) :=
  withRxValid_of_rxValid h.rxValid _

theorem Holds.exec_rxFlush {s : State} {bs : List Byte} (h : Holds s bs) :
    exec .rxFlush s = .next (s.rxClear.respond .flushed bs) :=
  withRxValid_of_rxValid h.rxValid _

/-- R140: the response to the eighth byte, by the verdict on eight bytes. -/
theorem mkResponse_verdict {f : List Byte} (eight : f.length = 8) :
    mkResponse (verdictStatus (unwrap f)) (verdictBytes f (unwrap f)) =
      match unwrap f with
      | .ok p => ⟨0x0#4, 5#4, pack p⟩
      | .framingError => ⟨0x1#4, 8#4, pack f⟩
      | .checksumError => ⟨0x2#4, 8#4, pack f⟩ := by
  cases verdict : unwrap f with
  | ok p =>
    have five : p.length = 5 := Nat.add_right_cancel ((unwrap_ok_length verdict).symm.trans eight)
    simp only [mkResponse, verdictBytes, five]
    rfl
  | framingError | checksumError =>
    simp only [mkResponse, verdictBytes, eight]
    rfl

/-- Settles O39: below seven bytes the byte is stored; on the eighth the frame is judged. -/
theorem rxByteResult : Obligations.RxByteResult := by
  refine fun s bs b j h => ⟨decodeRequest_rxByte j b, fun room => ?_, fun full => ?_⟩
  · refine ⟨_, h.receiveByte_pending room b, h.rxStore room b, ?_⟩
    rw [State.respond, mkResponse, List.length_append]
    rfl
  · have eight : (bs ++ [b]).length = 8 := by rw [List.length_append, full]; rfl
    have run := h.receiveByte_verdict full b
    rw [respondVerdict_eq] at run
    refine ⟨_, run, holds_rxClear s, ?_⟩
    rw [State.respond, mkResponse_verdict eight]
    rfl

/-- Settles O40. -/
theorem rxTimeoutResult : Obligations.RxTimeoutResult :=
  fun _ _ x h => ⟨decodeRequest_rxTimeout x, h.exec_rxTimeout⟩

/-- Settles O41. -/
theorem rxFlushResult : Obligations.RxFlushResult :=
  fun _ _ x h => ⟨decodeRequest_rxFlush x, h.exec_rxFlush⟩

/-! ## Frames, streams and timeouts (R141, R145 to R147) -/

/-- R140: the PENDING responses to bytes that arrive at an empty accumulator, each with the bytes so
far. -/
def pendings (bs : List Byte) : List Response :=
  (List.range bs.length).map fun k => mkResponse .pending (bs.take (k + 1))

theorem pendings_append_singleton (bs : List Byte) (b : Byte) :
    pendings (bs ++ [b]) = pendings bs ++ [mkResponse .pending (bs ++ [b])] := by
  have same : ∀ k ∈ List.range bs.length,
      mkResponse .pending ((bs ++ [b]).take (k + 1)) = mkResponse .pending (bs.take (k + 1)) := by
    intro k hk
    rw [List.take_append_of_le_length (List.mem_range.mp hk)]
  have whole : (bs ++ [b]).take (bs.length + 1) = bs ++ [b] := List.take_of_length_le (by simp)
  rw [pendings, List.length_append, List.length_singleton, List.range_succ, List.map_append,
    List.map_congr_left same, List.map_singleton, whole]
  rfl

theorem pendings_length (bs : List Byte) : (pendings bs).length = bs.length := by simp [pendings]

theorem status_of_mem_pendings {bs : List Byte} {r : Response} (h : r ∈ pendings bs) :
    r.status = 0x4#4 := by
  obtain ⟨_, -, rfl⟩ := List.mem_map.mp h
  rfl

/-- The model's PENDING responses to a frame are those to its first seven bytes. -/
theorem pendings_frame (f : Frame) : pendings (f.toList.take 7) = pendingResponses f := rfl

theorem Holds.rxClear_eq {s : State} (h : Holds s []) : s.rxClear = s := by
  obtain ⟨count, slots⟩ := h
  have buf : Vector.replicate 8 none = s.rxBuf := by
    ext1 i hi
    rw [Vector.getElem_replicate]
    exact (slots ⟨i, hi⟩).symm
  have zero : 0 = s.rxCount := Fin.ext count.symm
  rw [State.rxClear, buf, zero]

/-- Up to seven bytes from an empty accumulator: it holds them, each was answered PENDING, and nothing
but the accumulator and the responses has changed. -/
theorem Holds.receiveBytes_pending {s : State} (empty : Holds s []) {bs : List Byte}
    (short : bs.length ≤ 7) :
    ∃ t, receiveBytes bs s = .next t ∧ Holds t bs ∧
      t.rxClear = { s with responses := s.responses ++ pendings bs } := by
  induction bs using List.reverseRecOn with
  | nil =>
    refine ⟨s, rfl, empty, empty.rxClear_eq.trans ?_⟩
    rw [show pendings [] = [] from rfl, List.append_nil]
  | append_singleton bs b ih =>
    rw [List.length_append, List.length_singleton] at short
    obtain ⟨t, run, held, same⟩ := ih (by omega)
    refine ⟨(t.rxStore b).respond .pending (bs ++ [b]), ?_, held.rxStore short b, ?_⟩
    · rw [receiveBytes_append, run, andThen_next, receiveBytes, held.receiveByte_pending short b]
      rfl
    · calc ((t.rxStore b).respond .pending (bs ++ [b])).rxClear
          = t.rxClear.respond .pending (bs ++ [b]) := rfl
        _ = _ := by rw [same, pendings_append_singleton, ← List.append_assoc]; rfl

/-- R145: a received frame is answered as DECODE of it. -/
theorem Holds.execAll_expandRxFrame {s : State} (empty : Holds s []) (f : Frame) :
    execAll (expandRxFrame f) s =
      .next { s with responses := s.responses ++ pendingResponses f ++ [frameResponse f] } := by
  obtain ⟨t, run, held, same⟩ :=
    empty.receiveBytes_pending (bs := f.toList.take 7) (Nat.le_refl 7)
  have judged : t.rxClear.respondVerdict f.toList =
      { s with responses := s.responses ++ pendingResponses f ++ [frameResponse f] } := by
    rw [same, ← pendings_frame]
    exact Host.Outcome.next.inj (exec_decode f _)
  calc execAll (expandRxFrame f) s
      = receiveBytes (f.toList.take 7 ++ [f.f7]) s := execAll_map_rxByte f.toList s
    _ = andThen (receiveByte f.f7 t) .next := by rw [receiveBytes_append, run]; rfl
    _ = .next (t.rxClear.respondVerdict f.toList) := by
      rw [held.receiveByte_verdict rfl]
      rfl
    _ = _ := by rw [judged]

/-- Settles O44. -/
theorem rxFrameAnswersAsDecode : Obligations.RxFrameAnswersAsDecode :=
  fun f s empty => ⟨frameResponse f, exec_decode f s, empty.execAll_expandRxFrame f⟩

/-- Settles O45, by induction on the windows: each leaves the accumulator empty for the next. -/
theorem streamsAreCutIntoWindowsOfEight : Obligations.StreamsAreCutIntoWindowsOfEight := by
  intro fs
  induction fs with
  | nil =>
    intro s _
    rw [List.flatMap_nil, List.flatMap_nil, List.append_nil]
    rfl
  | cons f fs ih =>
    intro s empty
    have rest := ih { s with responses := s.responses ++ pendingResponses f ++ [frameResponse f] } empty
    rw [List.flatMap_cons, execAll_append, empty.execAll_expandRxFrame f, andThen_next, rest,
      List.flatMap_cons, ← List.append_assoc, ← List.append_assoc]

/-- Settles O46: the bytes are held when the timeout comes. -/
theorem timeoutReportsTheBytesSoFar : Obligations.TimeoutReportsTheBytesSoFar := by
  intro bs s empty short
  obtain ⟨t, run, held, same⟩ := empty.receiveBytes_pending short
  refine ⟨pendings bs, ?_, pendings_length bs, fun _ => status_of_mem_pendings⟩
  rw [execAll_append, execAll_map_rxByte, run, andThen_next, execAll, held.exec_rxTimeout, same]
  rfl

/-! ## No shared state (R144) -/

/-- The state with another value in `crc_reg`. -/
def State.withCrcReg (s : State) (c : Byte) : State := { s with crcReg := c }

/-- A meaning that neither reads nor changes `crc_reg`. -/
def IgnoresCrcReg (k : State → Result) : Prop :=
  ∀ (s : State) (c : Byte), k (s.withCrcReg c) = mapNext (·.withCrcReg c) (k s)

/-- The state with another accumulator. -/
def State.withAccumulator (s : State) (v : Vector (Option Byte) 8) (n : Fin 8) : State :=
  { s with rxBuf := v, rxCount := n }

/-- A meaning that neither reads nor changes the accumulator. -/
def IgnoresAccumulator (k : State → Result) : Prop :=
  ∀ (s : State) (v : Vector (Option Byte) 8) (n : Fin 8),
    k (s.withAccumulator v n) = mapNext (·.withAccumulator v n) (k s)

theorem mapNext_withRxValid (g : State → State) (s : State) (k : List Byte → Result) :
    mapNext g (withRxValid s k) = withRxValid s fun bs => mapNext g (k bs) := by
  unfold withRxValid
  cases s.rxValid <;> rfl

theorem receiveByte_ignoresCrcReg (b : Byte) : IgnoresCrcReg (receiveByte b) := by
  intro s c
  by_cases room : s.rxCount.val < 7
  · rw [receiveByte_of_room room, receiveByte_of_room (s := s.withCrcReg c) room, mapNext_withRxValid]
    rfl
  · rw [receiveByte_of_full room, receiveByte_of_full (s := s.withCrcReg c) room, mapNext_withRxValid]
    simp only [respondVerdict_eq]
    rfl

theorem receiveBytes_ignoresCrcReg (bs : List Byte) : IgnoresCrcReg (receiveBytes bs) := by
  induction bs with
  | nil => exact fun _ _ => rfl
  | cons b bs ih =>
    intro s c
    simp only [receiveBytes, receiveByte_ignoresCrcReg b s c, mapNext, andThen_assoc, andThen_next]
    congr
    funext t
    exact ih t c

/-- The receiving instructions ignore `crc_reg`. -/
theorem exec_ignoresCrcReg {i : Instr} (rx : writesAccumulator i = true) : IgnoresCrcReg (exec i) := by
  intro s c
  cases exec_meaning i with
  | answers _ _ _ noRx _ _ => cases noRx.symm.trans rx
  | receives bs _ run =>
    rw [run, run]
    exact receiveBytes_ignoresCrcReg bs s c
  | drains st _ run =>
    rw [run, run, mapNext_withRxValid]
    rfl

/-- All other instructions ignore the accumulator: what they write and answer depends on `crc_reg`. -/
theorem exec_ignoresAccumulator {i : Instr} (noRx : writesAccumulator i = false) :
    IgnoresAccumulator (exec i) := by
  intro s v n
  cases exec_meaning i with
  | answers f st reply _ _ run =>
    rw [run, run]
    rfl
  | receives _ rx _ | drains _ rx _ => cases noRx.symm.trans rx

/-- Settles O48. That a unit is left unchanged is the case in which its own value is put in. -/
theorem crcUnitAndDeframerShareNoState : Obligations.CrcUnitAndDeframerShareNoState := by
  refine ⟨fun i hi s c => ?_, fun i hi s v n => ?_⟩
  · have rx : writesAccumulator i = true := by
      obtain rfl | rfl | ⟨b, rfl⟩ := hi <;> rfl
    exact ⟨exec_ignoresCrcReg rx s c, exec_ignoresCrcReg rx s s.crcReg⟩
  · have noRx : writesAccumulator i = false := by
      obtain rfl | rfl | ⟨d, rfl⟩ | ⟨p, rfl⟩ | ⟨f, rfl⟩ := hi <;> rfl
    exact ⟨exec_ignoresAccumulator noRx s v n, exec_ignoresAccumulator noRx s s.rxBuf s.rxCount⟩

end Sys2Proof.Machine
end

section
/-! PROOFS. The family of spec/44_control.md: NOP (R150) and the reserved codes (R151). -/

namespace Sys2Proof.Machine

/-- A response without bytes has length 0 and zero data (R61, R62). -/
theorem mkResponse_nil (st : Status) : mkResponse st [] = ⟨statusCode st, 0#4, 0#64⟩ := rfl

/-! ## NOP (R150) -/

theorem decodeRequest_nop (x : Data) : decodeRequest (0x0#4 ++ x) = .nop := by
  rw [decodeRequest, requestOp_append]
  rfl

theorem exec_nop (s : State) : exec .nop s = .next (s.respond .ok []) := rfl

/-- Settles O53: every word with code 0 is NOP, which answers without bytes. -/
theorem nopResult : Obligations.NopResult := by
  refine fun s x => ⟨decodeRequest_nop x, ?_⟩
  rw [exec_nop, State.respond, mkResponse_nil]
  rfl

/-! ## The reserved codes (R151) -/

/-- The answer that the reserved codes share. -/
theorem reservedOp_eq (s : State) :
    reservedOp s = .next { s with responses := s.responses ++ [⟨0xF#4, 0#4, 0#64⟩] } := by
  rw [reservedOp, raise_eq_respond, State.respond, mkResponse_nil]
  rfl

/-- Settles O54: each code selects its own arm whatever `req_data` holds, and every such arm is
`reservedOp`. -/
theorem reservedCodesResult : Obligations.ReservedCodesResult := by
  intro e reserved s x
  simp only [List.mem_cons, List.not_mem_nil, or_false] at reserved
  obtain rfl | rfl | rfl | rfl | rfl | rfl | rfl := reserved
  all_goals
    refine ⟨?_, reservedOp_eq s⟩
    rw [decodeRequest, requestOp_append]
    rfl

end Sys2Proof.Machine
end

section
/-! PROOFS. The family of spec/45_command_payloads.md: the measurement that the host reads from a received
frame (R160, R167, R176) and the frequency builder (R163). -/

namespace Sys2Proof.Machine

/-! ## Received payloads (R160, R176) -/

/-- R160, R145: the reception of a payload's frame is the `RX.FRAME` of it. -/
theorem receiveResponse_eq_expandRxFrame (id : Byte) (a : Arg) (s : State) :
    receiveResponse id a s = execAll (expandRxFrame (frameOf (payloadOf id a))) s :=
  (execAll_map_rxByte (wrap (payloadOf id a).toList) s).symm

/-- A payload received at an empty accumulator is carried by the last response. -/
theorem Holds.receiveResponse_carries {s : State} (empty : Holds s []) (id : Byte) (a : Arg) :
    ∃ (t : State) (r : Response), receiveResponse id a s = .next t ∧
      t.responses.getLast? = some r ∧ responsePayload r = some (payloadOf id a) := by
  have received := empty.execAll_expandRxFrame (frameOf (payloadOf id a))
  rw [← receiveResponse_eq_expandRxFrame] at received
  obtain ⟨-, carried⟩ := (frameResponse_ok_iff (frameOf (payloadOf id a)) (payloadOf id a)).mpr rfl
  exact ⟨_, _, received, List.getLast?_concat, carried⟩

/-- R9: three big-endian bytes, as the distance of R176 is written. -/
theorem be_three (hi mid lo : Byte) :
    be [hi, mid, lo] = hi.toNat * 65536 + mid.toNat * 256 + lo.toNat := by
  simp [be, Nat.add_assoc]

theorem readMeasurement_payloadOf (err hi mid lo : Byte) :
    readMeasurement (payloadOf 0x07#8 ⟨err, hi, mid, lo⟩) = .ok ⟨err, be [hi, mid, lo]⟩ := rfl

/-- Settles O58: the last response carries the payload of the row, and a big-endian integer of three
bytes is below `256 ^ 3`. -/
theorem receivedMeasurementIsRead : Obligations.ReceivedMeasurementIsRead := by
  intro err hi mid lo s empty
  obtain ⟨t, r, run, last, carried⟩ :=
    empty.receiveResponse_carries 0x07#8 ⟨err, hi, mid, lo⟩
  have bound : be [hi, mid, lo] < 256 ^ 3 := be_lt [hi, mid, lo]
  rw [← be_three]
  exact ⟨t, r, _, run, last, carried, readMeasurement_payloadOf err hi mid lo, by omega⟩

/-! ## The frequency builder (R163) -/

/-- R160: an argument written as an integer is its four big-endian bytes. -/
theorem argBe4_toList (v : Nat) : (argBe4 v).toList = beBytes 4 v := by
  simp [argBe4, Arg.toList, beBytes]

/-- D26: the two readings of `FREQ_MAX`. -/
theorem freqMax_cases : freqMax = 500 ∨ freqMax = 2000 := by
  rw [freqMax]
  split
  · exact .inr rfl
  · exact .inl rfl

theorem buildCommand_setFrequency_of_inRange {hz : Nat} (inRange : 1 ≤ hz ∧ hz ≤ freqMax) :
    buildCommand (.setFrequency hz) = .ok (.cmdSetMeasurementFrequency (argBe4 hz)) :=
  if_pos inRange

theorem buildCommand_setFrequency_outOfRange_iff (hz : Nat) :
    buildCommand (.setFrequency hz) = .error .outOfRange ↔ ¬ (1 ≤ hz ∧ hz ≤ freqMax) := by
  refine ⟨fun refused inRange => ?_, fun outside => if_neg outside⟩
  cases (buildCommand_setFrequency_of_inRange inRange).symm.trans refused

/-- Settles O59: the range test is the builder's only one, and a frequency in range fits four bytes. -/
theorem setFrequencyBuilder : Obligations.SetFrequencyBuilder := by
  refine ⟨freqMax_cases, fun hz => ⟨?_, fun inRange => ?_⟩⟩
  · rw [buildCommand_setFrequency_outOfRange_iff]
    omega
  · have fits : hz < 256 ^ 4 := by
      have := freqMax_cases
      omega
    refine ⟨argBe4 hz, buildCommand_setFrequency_of_inRange inRange, ?_⟩
    rw [argBe4_toList, be_beBytes, Nat.mod_eq_of_lt fits]

end Sys2Proof.Machine
end

section
/-! PROOFS. The family of spec/70_reset_and_hazards.md: the events of the reset input and a whole episode
of reset (R210), and a received frame on top of a partial one (R215). -/

namespace Sys2Proof.Machine

/-! ## The events of the reset input, one step each (R195, R210) -/

/-- R210: reset is asserted by itself, or it cuts an operation off. -/
def AssertsReset (x : Input) : Prop := x = .assertReset ∨ ∃ w, x = .issueCutByReset w

/-- An operation that reset cuts off leaves the same state as an assertion by itself. -/
theorem step_assertsReset {s : State} {x : Input} {rest : List Input} (asserts : AssertsReset x)
    (waiting : s.inputs = x :: rest) :
    step s = .next ({ s with inputs := rest, responses := [] } : State).assertReset := by
  rw [step_input waiting]
  obtain rfl | ⟨w, rfl⟩ := asserts
  · rfl
  · rfl

theorem step_issue_of_inReset {s : State} {w : ProgramWord} {rest : List Input}
    (waiting : s.inputs = .issue w :: rest) (inReset : s.inReset = true) :
    step s = .next { s with inputs := rest, responses := [] } := by
  rw [step_input waiting]
  exact if_pos inReset

theorem step_releaseReset {s : State} {rest : List Input} (waiting : s.inputs = .releaseReset :: rest) :
    step s = .next { s with inReset := false, inputs := rest, responses := [] } :=
  step_input waiting

/-- Settles O3. -/
theorem resetAndIdleStepByStep : Obligations.ResetAndIdleStepByStep :=
  fun _ w _ => ⟨step_assertsReset (.inl rfl), step_assertsReset (.inr ⟨w, rfl⟩),
    step_issue_of_inReset, step_releaseReset, step_idle⟩

/-! ## A whole episode of reset (R210) -/

/-- A run of `n` steps from `s` ends in `t`, and none of its steps returns a response. -/
def RunsSilently (n : Nat) (s t : State) : Prop := runSteps n s = .next t ∧ observed n s = []

theorem RunsSilently.refl (s : State) : RunsSilently 0 s s := ⟨rfl, rfl⟩

theorem RunsSilently.step_first {n : Nat} {s t u : State} (first : step s = .next t)
    (silent : t.responses = []) (after : RunsSilently n t u) : RunsSilently (n + 1) s u := by
  obtain ⟨run, seen⟩ := after
  constructor
  · rw [runSteps, first, andThen_next, run]
  · rw [observed_succ first, silent, seen, List.append_nil]

/-- From reset asserted, any requests and then the release: the requests leave no trace. -/
theorem runsSilently_until_release {s : State} {ws : List ProgramWord} {rest : List Input}
    (inReset : s.inReset = true) (waiting : s.inputs = ws.map Input.issue ++ .releaseReset :: rest) :
    RunsSilently (ws.length + 1) s { s with inReset := false, inputs := rest, responses := [] } := by
  induction ws generalizing s with
  | nil => exact .step_first (step_releaseReset waiting) rfl (.refl _)
  | cons w ws ih => exact .step_first (step_issue_of_inReset waiting inReset) rfl (ih inReset rfl)

/-- Settles O4: the first step leaves the reset values, and the others keep them. -/
theorem resetEpisodeLeavesTheResetValues : Obligations.ResetEpisodeLeavesTheResetValues :=
  fun _ _ _ _ asserts waiting =>
    RunsSilently.step_first (step_assertsReset asserts waiting) rfl (runsSilently_until_release rfl rfl)

/-! ## A frame received on top of a partial one (R141, R215) -/

/-- R141: `rx_count` counts the received bytes modulo eight. -/
theorem receiveByte_rxCount {b : Byte} {s t : State} (h : receiveByte b s = .next t) :
    t.rxCount = s.rxCount + 1 := by
  obtain ⟨bs, -, -, rfl⟩ | ⟨bs, full, -, rfl⟩ := receiveByte_next h
  · rfl
  · have seven : s.rxCount = 7 := Fin.ext full
    rw [respondVerdict_eq, seven]
    rfl

theorem receiveBytes_rxCount {bs : List Byte} {s t : State} (h : receiveBytes bs s = .next t) :
    t.rxCount.val = (s.rxCount.val + bs.length) % 8 := by
  induction bs generalizing s with
  | nil =>
    cases h
    exact (Nat.mod_eq_of_lt t.rxCount.isLt).symm
  | cons b bs ih =>
    obtain ⟨u, hb, hbs⟩ := andThen_eq_next h
    rw [ih hbs, receiveByte_rxCount hb, Fin.val_add, List.length_cons, Fin.val_one]
    omega

/-- Eight bytes bring `rx_count` back to where it was, wherever the windows are cut. -/
theorem receiveResponse_of_rxInv {s : State} (inv : RxInv s) (id : Byte) (a : Arg) :
    ∃ t, receiveResponse id a s = .next t ∧
      execAll ((wrap [id, a.a0, a.a1, a.a2, a.a3]).map Instr.rxByte) s = .next t ∧
      t.rxCount = s.rxCount ∧ t.responses.length = s.responses.length + 8 ∧ t.crcReg = s.crcReg := by
  have eight : (wrap [id, a.a0, a.a1, a.a2, a.a3]).length = 8 := rfl
  obtain ⟨t, run, -⟩ := receiveBytes_of_rxInv inv (wrap [id, a.a0, a.a1, a.a2, a.a3])
  have count := receiveBytes_rxCount run
  obtain ⟨new, responses, answers, -⟩ := receiveBytes_returns run
  refine ⟨t, run, (execAll_map_rxByte _ s).trans run, ?_, ?_, receiveBytes_crcReg run⟩
  · rw [eight, Nat.add_mod_right, Nat.mod_eq_of_lt s.rxCount.isLt] at count
    exact Fin.ext count
  · rw [responses, List.length_append, answers, eight]

/-- Settles O57: both rows are the reception of the frame of their payload. -/
theorem deviceResponseRowsMixWithAPartialFrame : Obligations.DeviceResponseRowsMixWithAPartialFrame := by
  intro a s inv e row
  obtain rfl | rfl : e = (.rspMeasurementData a, 0x07#8) ∨ e = (.rspHighSpeedData a, 0x0E#8) := by
    simpa using row
  · exact receiveResponse_of_rxInv inv 0x07#8 a
  · exact receiveResponse_of_rxInv inv 0x0E#8 a

end Sys2Proof.Machine
end

section
/-! PROOFS. The payload rows of spec/45_command_payloads.md: a host to device row is one ENCODE (R73, R121),
a device to host row is the reception of its frame (R145), and the builders give literal frames (R177). -/

namespace Sys2Proof.Machine

/-! ## Received rows (R145, R160) -/

/-- R132: a framed payload is accepted, and the answer carries the payload. -/
theorem frameResponse_frameOf (p : Payload) :
    frameResponse (frameOf p) = ⟨0x0#4, 5#4, dataOfPayload p⟩ := by
  have accepted : unwrap (frameOf p).toList = .ok p.toList := unwrap_wrap p.toList
  rw [frameResponse_of_ok accepted, mkResponse, pack_payload]
  rfl

/-- R145: seven PENDING responses to the frame of a payload, and then `OK` with the payload. -/
theorem Holds.receiveResponse_eq {s : State} (empty : Holds s []) (id : Byte) (a : Arg) :
    receiveResponse id a s = .next { s with
      responses := s.responses ++ pendingResponses (frameOf (payloadOf id a)) ++
        [⟨0x0#4, 5#4, dataOfPayload (payloadOf id a)⟩] } := by
  rw [receiveResponse_eq_expandRxFrame, empty.execAll_expandRxFrame, frameResponse_frameOf]

/-- Settles O56: both rows are the reception of the frame of their payload. -/
theorem deviceResponseRowsResult : Obligations.DeviceResponseRowsResult := by
  intro a s empty e row
  refine ⟨frameOf (payloadOf e.2 a), dataOfFrame_frameOf _, ?_⟩
  obtain rfl | rfl : e = (.rspMeasurementData a, 0x07#8) ∨ e = (.rspHighSpeedData a, 0x0E#8) := by
    simpa using row
  · exact empty.receiveResponse_eq 0x07#8 a
  · exact empty.receiveResponse_eq 0x0E#8 a

/-! ## Sent rows (R73, R160) -/

/-- R121: the answer that the host to device rows share, that of ENCODE. -/
theorem sendCommand_eq (id : Byte) (a : Arg) (s : State) :
    sendCommand id a s = .next { s with
      responses := s.responses ++ [⟨0x0#4, 8#4, framedData (payloadOf id a)⟩] } :=
  (encodeResult s (payloadOf id a) 0).2

/-- Settles O55: each row sends its own command id with the given argument bytes. -/
theorem hostCommandRowsResult : Obligations.HostCommandRowsResult := by
  intro a s e row
  simp only [List.mem_cons, List.not_mem_nil, or_false] at row
  obtain rfl | rfl | rfl | rfl | rfl | rfl | rfl | rfl | rfl | rfl | rfl := row
  all_goals exact sendCommand_eq _ a s

/-! ## The builders with fixed arguments (R177) -/

/-- A command is built, and in every state its row is answered with the frame `w`. -/
def SendsFrame (c : Command) (w : Data) : Prop :=
  ∃ i : Instr, buildCommand c = .ok i ∧
    ∀ s : State, exec i s = .next { s with responses := s.responses ++ [⟨0x0#4, 8#4, w⟩] }

/-- A builder whose row sends `id` and `a` sends the frame of that payload. -/
theorem sendsFrame_of_framedData {c : Command} {i : Instr} {id : Byte} {a : Arg} {w : Data}
    (built : buildCommand c = .ok i) (row : exec i = sendCommand id a)
    (framed : framedData (payloadOf id a) = w) : SendsFrame c w := by
  refine ⟨i, built, fun s => ?_⟩
  rw [row, sendCommand_eq, framed]

/-- R163, D26: ten is within both readings of `FREQ_MAX`. -/
theorem buildCommand_setFrequency_ten :
    buildCommand (.setFrequency 10) = .ok (.cmdSetMeasurementFrequency (argBe4 10)) := by
  have within := freqMax_cases
  exact buildCommand_setFrequency_of_inRange (by omega)

/-- Settles O60: only the frequency builder has a test to pass; the frames are those of the payloads
that the rows send, CRC byte included. -/
theorem buildersGiveTheLiteralFrames : Obligations.BuildersGiveTheLiteralFrames := by
  intro e listed
  change SendsFrame e.1 e.2
  simp only [List.mem_cons, List.not_mem_nil, or_false] at listed
  obtain rfl | rfl | rfl | rfl | rfl | rfl | rfl | rfl | rfl | rfl := listed
  case inr.inl =>
    exact sendsFrame_of_framedData buildCommand_setFrequency_ten rfl (by decide +kernel)
  all_goals exact sendsFrame_of_framedData rfl rfl (by decide +kernel)

end Sys2Proof.Machine
end
